-- ==== Sys2Proof/Word.lean ====
section
/-! DEFINITION. The word types of the block: request and response words and the values their fields and the block's
registers hold. Every value is unsigned and bit 0 is the least significant bit (spec R9). -/

namespace Sys2Proof

/-- A request word `REQ[63:0]` (R70). -/
abbrev Request := BitVec 64

/-- A response word `RSP[31:0]` (R70, R76). -/
abbrev Response := BitVec 32

/-- The pc operand, `W_PC = 32` bits (R7, R21). -/
abbrev Pc := BitVec 32

/-- A table index, as the prediction-context buffer holds it (R33). -/
abbrev Index := BitVec 32

/-- A history register or local-history pattern; its width n is set at run time, so its value is below `2^n` (R27, R28). -/
abbrev History := BitVec 32

/-- A width field G, L or P of INIT and a configuration register (R24, R72). -/
abbrev Width := BitVec 6

/-- The tag of an outstanding prediction: the number of its slot (R74, R76). -/
abbrev Tag := BitVec 8

/-- The state of a `saturating_counter_2bit` (R25). -/
abbrev Counter2 := BitVec 2

/-- The state of a `saturating_counter_3bit` (R26). -/
abbrev Counter3 := BitVec 3

end Sys2Proof
end

