-- ==== Sys2Proof/Config.lean ====
section
/-! DEFINITION. What is fixed when the block is built: the synthesis-time parameters (spec R7) and the fixed Bimode widths.
The open parameters are arguments of the model: an instance carries them as `State.params`, no command writes them, and
every statement is for all their legal values (log 3). -/

namespace Sys2Proof

namespace Config

/-- `BIMODE_G`, the width of the Bimode direction tables and history (R7). -/
def bimodeG : Nat := 11

/-- `BIMODE_P`, the width of the Bimode chooser-table index (R7). -/
def bimodeP : Nat := 11

end Config

/-- The open synthesis-time parameters (R7; decisions D7, D12, D16, D18). -/
structure Params where
  /-- `W_IDX_MAX`, the largest legal G, L or P -/
  wIdxMax : Nat
  /-- `W_SEQ`, so that there are `2^W_SEQ` prediction-context slots -/
  wSeq : Nat
  /-- `TG_INIT`, the INIT value of the Tournament global counters -/
  tgInit : Counter2
  /-- `TL_INIT`, the INIT value of the Tournament local counters -/
  tlInit : Counter2
  /-- `TC_INIT`, the INIT value of the Tournament chooser counters -/
  tcInit : Counter2
  /-- `BC_INIT`, the INIT value of the Bimode chooser counters -/
  bcInit : Counter3
  deriving DecidableEq, Repr

/-- The legal ranges of the parameters (R7). -/
abbrev Params.legal (p : Params) : Prop :=
  (11 ≤ p.wIdxMax ∧ p.wIdxMax ≤ 32) ∧ p.wSeq ≤ 8 ∧
  (p.tgInit = 1 ∨ p.tgInit = 2) ∧ (p.tlInit = 1 ∨ p.tlInit = 2) ∧ (p.tcInit = 1 ∨ p.tcInit = 2) ∧
  p.bcInit ≤ 3

/-- `NSLOT`, the number of prediction-context slots (R7, R33). -/
def Params.nslot (p : Params) : Nat := 2 ^ p.wSeq

/-- The spec's defaults, those of every vector of `95_test_vectors.md` (R7). -/
def Params.default : Params :=
  { wIdxMax := 32, wSeq := 0, tgInit := 1, tlInit := 1, tcInit := 1, bcInit := 3 }

end Sys2Proof
end

