-- ==== Sys2Proof/Syntax.lean ====
section
/-! DEFINITION. The commands of the request interface, one constructor for each row of spec/opcode_table.json (spec R78).
A constructor carries every field of its format, the reserved bits too: a request with a reserved bit set is still a
request of its row, and the row's rule answers it with BAD_REQUEST (R78, R79; log 12). -/

namespace Sys2Proof

inductive Instr where
  /-- NOP (R75, R201); `resv` is `REQ[63:2]`. -/
  | nop (resv : BitVec 62)
  /-- INIT.STATIC (R72, R202); `resv` is `REQ[63:23]`. -/
  | initStatic (g l p : Width) (resv : BitVec 41)
  /-- INIT.GSHARE (R72, R203); `resv` is `REQ[63:23]`. -/
  | initGshare (g l p : Width) (resv : BitVec 41)
  /-- INIT.TOURNAMENT (R72, R204); `resv` is `REQ[63:23]`. -/
  | initTournament (g l p : Width) (resv : BitVec 41)
  /-- INIT.BIMODE (R72, R205); `resv` is `REQ[63:23]`. -/
  | initBimode (g l p : Width) (resv : BitVec 41)
  /-- INIT.INVALID (R72, R80, R207): an unrecognised scheme code, 4 to 7; `resv` is `REQ[63:23]`. -/
  | initInvalid (scheme : BitVec 3) (g l p : Width) (resv : BitVec 41)
  /-- PREDICT (R73, R208); `resv` is `REQ[31:2]`. -/
  | predict (pc : Pc) (resv : BitVec 30)
  /-- TRAIN (R74, R210); `resvLo` is `REQ[7:3]` and `resvHi` is `REQ[31:16]`; `o` is true for taken. -/
  | train (o : Bool) (tag : Tag) (pc : Pc) (resvLo : BitVec 5) (resvHi : BitVec 16)
  deriving DecidableEq, Repr

end Sys2Proof
end

