-- ==== Sys2Proof/WellFormed.lean ====
section
/-! DEFINITION. The two checks on a command as syntax. `Instr.wf` says that the term stands for a request word at all: an
INIT.INVALID has a scheme code of 4 to 7 (spec R78, R80). `Instr.legal` is the reserved-bit check of R79; a request that
fails it is decoded and answered with BAD_REQUEST. -/

namespace Sys2Proof

/-- The term is the reading of some request word: INIT.INVALID covers exactly the scheme codes 4 to 7 (R78). Every value of
every other field is in an encoding (R81). -/
def Instr.wf : Instr → Bool
  | .nop _ => true
  | .initStatic _ _ _ _ => true
  | .initGshare _ _ _ _ => true
  | .initTournament _ _ _ _ => true
  | .initBimode _ _ _ _ => true
  | .initInvalid scheme _ _ _ _ => decide (4 ≤ scheme.toNat)
  | .predict _ _ => true
  | .train _ _ _ _ _ => true

/-- No reserved bit is set (R79). -/
def Instr.legal : Instr → Bool
  | .nop resv => resv == 0
  | .initStatic _ _ _ resv => resv == 0
  | .initGshare _ _ _ resv => resv == 0
  | .initTournament _ _ _ resv => resv == 0
  | .initBimode _ _ _ resv => resv == 0
  | .initInvalid _ _ _ _ resv => resv == 0
  | .predict _ resv => resv == 0
  | .train _ _ _ resvLo resvHi => resvLo == 0 && resvHi == 0

end Sys2Proof
end

