-- ==== Sys2Proof/Decode.lean ====
section
/-! DEFINITION. Decoding and encoding of request words (spec R70 to R79). Decoding is total: the eight rows of the opcode map
divide the space of 64-bit words (R78). The only thing rejected by name is what is not one 64-bit word (R70). No byte order
exists (R53): the decoder takes the whole word (log 7). -/

namespace Sys2Proof

/-- A row of the opcode map (R78) with its reserved-zero mask (R79). -/
structure OpcodeRow where
  mnemonic : String
  pattern : Request
  mask : Request
  reservedZero : Request
  deriving DecidableEq, Repr

def rowNop : OpcodeRow := ⟨"NOP", 0x0000000000000000, 0x0000000000000003, 0xFFFFFFFFFFFFFFFC⟩
def rowInitStatic : OpcodeRow := ⟨"INIT.STATIC", 0x0000000000000001, 0x000000000000001F, 0xFFFFFFFFFF800000⟩
def rowInitGshare : OpcodeRow := ⟨"INIT.GSHARE", 0x0000000000000005, 0x000000000000001F, 0xFFFFFFFFFF800000⟩
def rowInitTournament : OpcodeRow := ⟨"INIT.TOURNAMENT", 0x0000000000000009, 0x000000000000001F, 0xFFFFFFFFFF800000⟩
def rowInitBimode : OpcodeRow := ⟨"INIT.BIMODE", 0x000000000000000D, 0x000000000000001F, 0xFFFFFFFFFF800000⟩
def rowInitInvalid : OpcodeRow := ⟨"INIT.INVALID", 0x0000000000000011, 0x0000000000000013, 0xFFFFFFFFFF800000⟩
def rowPredict : OpcodeRow := ⟨"PREDICT", 0x0000000000000002, 0x0000000000000003, 0x00000000FFFFFFFC⟩
def rowTrain : OpcodeRow := ⟨"TRAIN", 0x0000000000000003, 0x0000000000000003, 0x00000000FFFF00F8⟩

/-- The opcode map, in the table's order (R78). -/
def opcodeTable : List OpcodeRow :=
  [rowNop, rowInitStatic, rowInitGshare, rowInitTournament, rowInitBimode, rowInitInvalid, rowPredict, rowTrain]

/-- The word is of the row: its bits under the mask are the row's (R78). -/
def OpcodeRow.matchesWord (r : OpcodeRow) (w : Request) : Bool := w &&& r.mask == r.pattern

/-- The row a command is of. -/
def rowOf : Instr → OpcodeRow
  | .nop _ => rowNop
  | .initStatic _ _ _ _ => rowInitStatic
  | .initGshare _ _ _ _ => rowInitGshare
  | .initTournament _ _ _ _ => rowInitTournament
  | .initBimode _ _ _ _ => rowInitBimode
  | .initInvalid _ _ _ _ _ => rowInitInvalid
  | .predict _ _ => rowPredict
  | .train _ _ _ _ _ => rowTrain

/-- The INIT format: scheme `REQ[4:2]`, G `REQ[10:5]`, L `REQ[16:11]`, P `REQ[22:17]`, reserved `REQ[63:23]` (R72). -/
def decodeInit (w : Request) : Instr :=
  let scheme := w.extractLsb' 2 3
  let g := w.extractLsb' 5 6
  let l := w.extractLsb' 11 6
  let p := w.extractLsb' 17 6
  let resv := w.extractLsb' 23 41
  if scheme = 0 then .initStatic g l p resv
  else if scheme = 1 then .initGshare g l p resv
  else if scheme = 2 then .initTournament g l p resv
  else if scheme = 3 then .initBimode g l p resv
  else .initInvalid scheme g l p resv

/-- The command of a request word: `cmd = REQ[1:0]` selects the format (R71), and each format's fields are read straight
from their bits (R72 to R75, R77). -/
def decode (w : Request) : Instr :=
  let cmd := w.extractLsb' 0 2
  if cmd = 0b00 then .nop (w.extractLsb' 2 62)
  else if cmd = 0b01 then decodeInit w
  else if cmd = 0b10 then .predict (w.extractLsb' 32 32) (w.extractLsb' 2 30)
  else .train (w.getLsbD 2) (w.extractLsb' 8 8) (w.extractLsb' 32 32) (w.extractLsb' 3 5) (w.extractLsb' 16 16)

/-- Why a string of bits is no request. -/
inductive DecodeError where
  /-- More than 64 bits: "every request is one word" (R70). Raised by `decodeBits`; safe. -/
  | notOneWord
  deriving DecidableEq, Repr

/-- Decoding of the `nbits` bits of `w`, numbered as R9 numbers them; bits above `nbits` are 0. More than one word is
rejected by name (R70: there are no other lengths). -/
def decodeBits (nbits w : Nat) : Except DecodeError Instr :=
  if nbits ≤ 64 then .ok (decode (BitVec.ofNat 64 (w % 2 ^ nbits))) else .error .notOneWord

/-- The instruction the decoder reads from an opcode-table word of `nbits` bits (the host's fixed name). -/
def decodeTableWord (nbits w : Nat) : Option Instr :=
  match decodeBits nbits w with
  | .ok i => some i
  | .error _ => none

/-- An INIT word from its fields, highest first (R72). -/
def encodeInit (scheme : BitVec 3) (g l p : Width) (resv : BitVec 41) : Request :=
  resv ++ p ++ l ++ g ++ scheme ++ 0b01#2

/-- The request word of a command, its fields from the highest to the lowest (R72 to R75). -/
def encode : Instr → Request
  | .nop resv => resv ++ 0b00#2
  | .initStatic g l p resv => encodeInit 0 g l p resv
  | .initGshare g l p resv => encodeInit 1 g l p resv
  | .initTournament g l p resv => encodeInit 2 g l p resv
  | .initBimode g l p resv => encodeInit 3 g l p resv
  | .initInvalid scheme g l p resv => encodeInit scheme g l p resv
  | .predict pc resv => pc ++ resv ++ 0b10#2
  | .train o tag pc resvLo resvHi => pc ++ resvHi ++ tag ++ resvLo ++ BitVec.ofBool o ++ 0b11#2

end Sys2Proof
end

