-- ==== Sys2Proof/Machine/State.lean ====
section
/-! DEFINITION. The state of the block (spec `10_state.md`), as plain data, and its reset (R34, R270). -/

namespace Sys2Proof.Machine

/-- `MODE` (R23). The register has 3 bits; its values 6 and 7 are never held, so the type has six names (U13; log 6). -/
inductive Mode where
  | unconfigured
  | error
  | static
  | gshare
  | tournament
  | bimode
  deriving DecidableEq, Repr

/-- A table: an index space whose entries are whole values (R50). `fill` is what an index that is not listed reads as (the
value INIT wrote everywhere); `cells` lists the other entries, by rising index (log 5). -/
structure Table (α : Type) where
  fill : α
  cells : List (Nat × α)
  deriving DecidableEq, Repr

/-- A slot of the prediction-context buffer (R33). -/
structure Ctx where
  valid : Bool
  pc : Pc
  gidx : Index
  pidx : Index
  lidx : Index
  gpred : Bool
  lpred : Bool
  didx : Index
  cidx : Index
  sel : Bool
  selpred : Bool
  deriving DecidableEq, Repr

/-- The all-zero slot: free, and every field 0 (R33). -/
def Ctx.zero : Ctx :=
  { valid := false, pc := 0, gidx := 0, pidx := 0, lidx := 0, gpred := false, lpred := false,
    didx := 0, cidx := 0, sel := false, selpred := false }

/-- `gshare_table_and_indexer` (R27). -/
structure Gshare where
  /-- `GS_T` -/
  table : Table Counter2
  /-- `GS_H` -/
  hist : History
  deriving DecidableEq, Repr

/-- `tournament_chooser_table` (R28). -/
structure Tournament where
  /-- `TN_G`, the global table -/
  glob : Table Counter2
  /-- `TN_L`, the local outcome table -/
  loc : Table Counter2
  /-- `TN_LHT`, the local-history table -/
  lht : Table History
  /-- `TN_C`, the chooser table -/
  chooser : Table Counter2
  /-- `TN_H` -/
  hist : History
  deriving DecidableEq, Repr

/-- `bimode_direction_tables_and_chooser` (R29). -/
structure Bimode where
  /-- `BM_T`, the taken table -/
  taken : Table Counter2
  /-- `BM_N`, the not-taken table -/
  notTaken : Table Counter2
  /-- `BM_C`, the chooser table -/
  chooser : Table Counter3
  /-- `BM_H` -/
  hist : History
  deriving DecidableEq, Repr

/-- The block never stops with a fault: "No item has the treatment `fault` or `stuck`. Every request gets a defined response
in one step" (`93_implementation_defined.md`). So no reason for one exists. -/
inductive Fault
  deriving DecidableEq, Repr

/-- Why the model has no meaning for a request. -/
inductive Refusal where
  /-- The instruction has no meaning in the model yet. Raised by an arm of `exec` and by nothing else; safe. No arm of this
  model raises it. -/
  | notModelled (mnemonic : String)
  deriving DecidableEq, Repr

/-- One instance of the block (R16), and the two ends of its request interface. -/
structure State where
  /-- the synthesis-time parameters of the instance (R7); nothing writes them (log 3) -/
  params : Params
  /-- `MODE` (R23) -/
  mode : Mode
  /-- `CFG_G` (R24) -/
  cfgG : Width
  /-- `CFG_L` (R24) -/
  cfgL : Width
  /-- `CFG_P` (R24) -/
  cfgP : Width
  /-- `PCB`, the prediction-context buffer (R33) -/
  pcb : Table Ctx
  /-- `GS_T`, `GS_H` (R27) -/
  gs : Gshare
  /-- `TN_G`, `TN_L`, `TN_LHT`, `TN_C`, `TN_H` (R28) -/
  tn : Tournament
  /-- `BM_T`, `BM_N`, `BM_C`, `BM_H` (R29) -/
  bm : Bimode
  /-- MODEL'S OWN: the requests the caller has still to send, in its order (R14, R59; log 1) -/
  pending : List Request
  /-- MODEL'S OWN: the responses returned, newest first (R70; log 1). No command reads them (R22). -/
  responses : List Response
  deriving DecidableEq, Repr

/-- The instance with parameters `p` right after reset (R34, R270). DESIGN CHOICE (log 4): the unit tables and histories,
which R34 leaves unspecified, are 0. -/
def State.resetWith (p : Params) : State :=
  { params := p, mode := .unconfigured, cfgG := 0, cfgL := 0, cfgP := 0,
    pcb := ⟨Ctx.zero, []⟩,
    gs := ⟨⟨0, []⟩, 0⟩,
    tn := ⟨⟨0, []⟩, ⟨0, []⟩, ⟨0, []⟩, ⟨0, []⟩, 0⟩,
    bm := ⟨⟨0, []⟩, ⟨0, []⟩, ⟨0, []⟩, 0⟩,
    pending := [], responses := [] }

/-- The block with the spec's default parameters right after reset. -/
def State.reset : State := State.resetWith Params.default

end Sys2Proof.Machine
end

