-- ==== Sys2Proof/Machine/Flags.lean ====
section
/-! DEFINITION. The block keeps no flags (spec R22): what a command reports, it reports in its response word. Here are the
status codes (R240) and the response word (R76). -/

namespace Sys2Proof.Machine

/-- The status of a response (R240). Codes 6 and 7 are never produced, so no name stands for them (U12; log 6). -/
inductive Status where
  | ok
  | badRequest
  | unconfigured
  | cfgError
  | busy
  | protocolError
  deriving DecidableEq, Repr

/-- `RSP[2:0]` (R240). -/
def Status.code : Status → BitVec 3
  | .ok => 0
  | .badRequest => 1
  | .unconfigured => 2
  | .cfgError => 3
  | .busy => 4
  | .protocolError => 5

/-- The 3-bit value of `MODE` (R23). -/
def Mode.code : Mode → BitVec 3
  | .unconfigured => 0
  | .error => 1
  | .static => 2
  | .gshare => 3
  | .tournament => 4
  | .bimode => 5

/-- `respond(status, taken, tag)` builds `zext_32(tag) << 8 | b2n(taken) << 3 | status` (R76). -/
def responseWord (st : Status) (taken : Bool) (tag : Tag) : Response :=
  tag.setWidth 32 <<< 8 ||| (BitVec.ofBool taken).setWidth 32 <<< 3 ||| st.code.setWidth 32

/-- `RSP[2:0]` of a response word (R76). -/
def responseStatus (r : Response) : BitVec 3 := r.extractLsb' 0 3

/-- `RSP[3]` of a response word (R76). -/
def responseTaken (r : Response) : Bool := r.getLsbD 3

/-- `RSP[15:8]` of a response word (R76). -/
def responseTag (r : Response) : Tag := r.extractLsb' 8 8

end Sys2Proof.Machine
end

