-- ==== Sys2Proof/Machine/Operands.lean ====
section
/-! DEFINITION. What the commands make of their operands: the mask of a width (spec R10), the validity of a width (R213), the
active widths (R24). Operand fields are used as they are, unsigned, with no shift or scaling (R77, R21). -/

namespace Sys2Proof.Machine

/-- `mask(n) = 2^n - 1` for a width of at most 32 bits (R10). -/
def mask (n : Nat) : BitVec 32 := BitVec.ofNat 32 (2 ^ n - 1)

/-- `valid_w(w)`: from 1 to `W_IDX_MAX` (R213). -/
def validW (p : Params) (w : Width) : Bool := decide (1 ≤ w.toNat) && decide (w.toNat ≤ p.wIdxMax)

/-- The active width G, from `CFG_G` (R24). -/
def State.widthG (s : State) : Nat := s.cfgG.toNat

/-- The active width L, from `CFG_L` (R24). -/
def State.widthL (s : State) : Nat := s.cfgL.toNat

/-- The active width P, from `CFG_P` (R24). -/
def State.widthP (s : State) : Nat := s.cfgP.toNat

end Sys2Proof.Machine
end

