-- ==== Sys2Proof/Machine/Ops.lean ====
section
/-! DEFINITION. The named operations the commands share: reading and writing a table entry (spec R51, R52), the
prediction-context buffer (R33, R206, R209), the configuration (R207) and `respond` (R11, R76), which is what the block has
in place of taking an exception (R245). -/

namespace Sys2Proof.Machine

/-- The value listed for index `i`, or what an index that is not listed reads as. -/
def lookupCell {α : Type} (fill : α) : List (Nat × α) → Nat → α
  | [], _ => fill
  | (k, v) :: rest, i => if k = i then v else lookupCell fill rest i

/-- The cells after index `i` is given the value `v`: still by rising index, and with no cell that holds `fill`. -/
def storeCell {α : Type} [DecidableEq α] (fill : α) : List (Nat × α) → Nat → α → List (Nat × α)
  | [], i, v => if v = fill then [] else [(i, v)]
  | (k, u) :: rest, i, v =>
    if k < i then (k, u) :: storeCell fill rest i v
    else if k = i then (if v = fill then rest else (i, v) :: rest)
    else (if v = fill then (k, u) :: rest else (i, v) :: (k, u) :: rest)

/-- `T[i]` (R51). -/
def Table.read {α : Type} (t : Table α) (i : Nat) : α := lookupCell t.fill t.cells i

/-- `T[i] <- v` (R52). -/
def Table.write {α : Type} [DecidableEq α] (t : Table α) (i : Nat) (v : α) : Table α :=
  { t with cells := storeCell t.fill t.cells i v }

/-- `for i: T[i] <- v` over the whole active region (R31, R50). -/
def Table.filled {α : Type} (v : α) : Table α := ⟨v, []⟩

/-- The canonical form of a table: indices strictly rising, and no cell that holds what an unlisted index reads as. -/
abbrev Table.wf {α : Type} (t : Table α) : Prop :=
  t.cells.Pairwise (fun a b => a.1 < b.1) ∧ ∀ c ∈ t.cells, c.2 ≠ t.fill

/-- Every listed index is below `2^n`. -/
abbrev Table.within {α : Type} (t : Table α) (n : Nat) : Prop := ∀ c ∈ t.cells, c.1 < 2 ^ n

/-- `PCB[k]` (R33). -/
def State.slot (s : State) (k : Nat) : Ctx := s.pcb.read k

/-- `PCB[k] <- c` (R33). -/
def State.writeSlot (s : State) (k : Nat) (c : Ctx) : State := { s with pcb := s.pcb.write k c }

/-- `clear_pcb()`: every field of every slot becomes 0 (R206). -/
def State.clearPcb (s : State) : State := { s with pcb := Table.filled Ctx.zero }

/-- `free_slot()`: the least s in `0 .. NSLOT-1` with `PCB[s].valid == 0`, or none (R209). -/
def State.freeSlot (s : State) : Option Nat := (List.range s.params.nslot).find? (fun k => !(s.slot k).valid)

/-- TRAIN's protocol check: the tag names a slot, the slot is valid and it holds the request's pc (R210). -/
def State.slotMatches (s : State) (tag : Tag) (pc : Pc) : Bool :=
  decide (tag.toNat < s.params.nslot) && (s.slot tag.toNat).valid && decide ((s.slot tag.toNat).pc = pc)

/-- `MODE <- m; CFG_G <- g; CFG_L <- l; CFG_P <- p` (R202 to R207). -/
def State.configure (s : State) (m : Mode) (g l p : Width) : State :=
  { s with mode := m, cfgG := g, cfgL := l, cfgP := p }

/-- `respond(status, taken, tag)`: the request's one response, and the end of the command (R11, R76). -/
def State.respondWith (s : State) (st : Status) (taken : Bool) (tag : Tag) : State :=
  { s with responses := responseWord st taken tag :: s.responses }

/-- `respond(status)`: taken and tag are 0 (R76). -/
def State.respond (s : State) (st : Status) : State := s.respondWith st false 0

/-- `init_fail()` (R207). -/
def State.initFail (s : State) : State := (s.configure .error 0 0 0).respond .cfgError

/-- The request leaves the caller's list as the block takes it. -/
def State.dequeue (s : State) (rest : List Request) : State := { s with pending := rest }

/-- The Gshare unit is replaced. -/
def State.setGs (s : State) (u : Gshare) : State := { s with gs := u }

/-- The Tournament unit is replaced. -/
def State.setTn (s : State) (u : Tournament) : State := { s with tn := u }

/-- The Bimode unit is replaced. -/
def State.setBm (s : State) (u : Bimode) : State := { s with bm := u }

end Sys2Proof.Machine
end

