-- ==== Sys2Proof/Machine/Counters.lean ====
section
/-! DEFINITION. The three leaf sub-blocks of `40_counters_history.md`: `saturating_counter_2bit`, `saturating_counter_3bit` and
`history_register_shifter`. -/

namespace Sys2Proof.Machine

/-- `bump_n(v, d) = if d then min(v + 1, 2^n - 1) else max(v - 1, 0)`, on naturals (R106). -/
def bump {n : Nat} (v : BitVec n) (d : Bool) : BitVec n :=
  if d then BitVec.ofNat n (min (v.toNat + 1) (2 ^ n - 1)) else BitVec.ofNat n (v.toNat - 1)

/-- The read-out of a counter of n bits: the threshold is `2^(n-1)` (R106). -/
def readOut {n : Nat} (v : BitVec n) : Bool := decide (2 ^ (n - 1) ≤ v.toNat)

/-- `bump2` (R101). -/
def bump2 (v : Counter2) (d : Bool) : Counter2 := bump v d

/-- `pred2`, asPrediction (R102). -/
def pred2 (v : Counter2) : Bool := readOut v

/-- `bump3` (R104). -/
def bump3 (v : Counter3) (d : Bool) : Counter3 := bump v d

/-- `pred3`, "prefer taken-table" (R105). -/
def pred3 (v : Counter3) : Bool := readOut v

/-- `hshift(h, o, n) = ((h << 1) | b2n(o)) & mask(n)` (R107). The shift here drops bit 32 of the 33-bit intermediate value,
which the mask of a width of at most 32 drops in any case (log 8). -/
def hshift (h : History) (o : Bool) (n : Nat) : History :=
  (h <<< 1 ||| (BitVec.ofBool o).setWidth 32) &&& mask n

end Sys2Proof.Machine
end

