-- ==== Sys2Proof/Machine/Bimode.lean ====
section
/-! DEFINITION. bimode_direction_tables_and_chooser (spec `43_bimode.md`). Its widths are fixed (R170). -/

namespace Sys2Proof.Machine

/-- `bm_didx(pc) = (pc ^ BM_H) & mask(11)` (R171). -/
def bmDidx (u : Bimode) (pc : Pc) : Index := (pc ^^^ u.hist) &&& mask Config.bimodeG

/-- `bm_cidx(pc) = pc & mask(11)` (R171). -/
def bmCidx (pc : Pc) : Index := pc &&& mask Config.bimodeP

/-- `bm_predict(pc)` (R172). -/
def bmPredict (u : Bimode) (pc : Pc) : Bool × Ctx :=
  let di := bmDidx u pc
  let ci := bmCidx pc
  let sel := pred3 (u.chooser.read ci.toNat)
  let selpred := if sel then pred2 (u.taken.read di.toNat) else pred2 (u.notTaken.read di.toNat)
  (selpred, { Ctx.zero with didx := di, cidx := ci, sel := sel, selpred := selpred })

/-- `bm_train` step 1, the chooser, on the recorded selection and its prediction (R173; `90_conflicts.md` C1). -/
def bmTrainChooser (u : Bimode) (ctx : Ctx) (o : Bool) : Bimode :=
  if o && !ctx.sel && !ctx.selpred then
    { u with chooser := u.chooser.write ctx.cidx.toNat (bump3 (u.chooser.read ctx.cidx.toNat) true) }
  else if !o && ctx.sel && ctx.selpred then
    { u with chooser := u.chooser.write ctx.cidx.toNat (bump3 (u.chooser.read ctx.cidx.toNat) false) }
  else u

/-- `bm_train` step 2, the direction table the prediction selected, and only that one (R174). -/
def bmTrainTable (u : Bimode) (ctx : Ctx) (o : Bool) : Bimode :=
  if ctx.sel then { u with taken := u.taken.write ctx.didx.toNat (bump2 (u.taken.read ctx.didx.toNat) o) }
  else { u with notTaken := u.notTaken.write ctx.didx.toNat (bump2 (u.notTaken.read ctx.didx.toNat) o) }

/-- `bm_train` step 3, the history (R175). -/
def bmTrainHist (u : Bimode) (o : Bool) : Bimode :=
  { u with hist := hshift u.hist o Config.bimodeG }

/-- `bm_train(ctx, o)`: steps 1, 2, 3 in this order (R176). -/
def bmTrain (u : Bimode) (ctx : Ctx) (o : Bool) : Bimode :=
  bmTrainHist (bmTrainTable (bmTrainChooser u ctx o) ctx o) o

/-- `bm_init()`: taken table WeakTaken, not-taken table WeakNotTaken, chooser `BC_INIT` (R177). -/
def bmInit (p : Params) : Bimode :=
  { taken := Table.filled 2
    notTaken := Table.filled 1
    chooser := Table.filled p.bcInit
    hist := 0 }

end Sys2Proof.Machine
end

