-- ==== Sys2Proof/Machine/Gshare.lean ====
section
/-! DEFINITION. gshare_table_and_indexer (spec `41_gshare.md`). `n` is the active width G = `CFG_G`. -/

namespace Sys2Proof.Machine

/-- `gs_index(pc) = (pc ^ GS_H) & mask(G)` (R121). -/
def gsIndex (u : Gshare) (n : Nat) (pc : Pc) : Index := (pc ^^^ u.hist) &&& mask n

/-- `gs_predict(pc)` (R122). -/
def gsPredict (u : Gshare) (n : Nat) (pc : Pc) : Bool × Ctx :=
  let i := gsIndex u n pc
  (pred2 (u.table.read i.toNat), { Ctx.zero with gidx := i })

/-- `gs_train(ctx, o)`: the counter the prediction read, then the current history (R123). -/
def gsTrain (u : Gshare) (n : Nat) (ctx : Ctx) (o : Bool) : Gshare :=
  { table := u.table.write ctx.gidx.toNat (bump2 (u.table.read ctx.gidx.toNat) o)
    hist := hshift u.hist o n }

/-- `gs_init()`: every counter WeakNotTaken, the history empty (R124). -/
def gsInit : Gshare := ⟨Table.filled 1, 0⟩

end Sys2Proof.Machine
end

