-- ==== Sys2Proof/Machine/Static.lean ====
section
/-! DEFINITION. The Static scheme of branch_predictor_mux (spec R211, R212). It has no state (R30). -/

namespace Sys2Proof.Machine

/-- `static_predict(pc)`: always taken, with an all-zero context (R211). -/
def staticPredict (_pc : Pc) : Bool × Ctx := (true, Ctx.zero)

/-- `static_train(ctx, o)`: no operation (R212). -/
def staticTrain (s : State) (_ctx : Ctx) (_o : Bool) : State := s

end Sys2Proof.Machine
end

