-- ==== Sys2Proof/Machine/Tournament.lean ====
section
/-! DEFINITION. tournament_chooser_table (spec `42_tournament.md`). `g`, `l` and `p` are the active widths G, L and P. -/

namespace Sys2Proof.Machine

/-- `tn_gidx() = TN_H & mask(G)`: the global-table and chooser index; pc has no part in it (R141). -/
def tnGidx (u : Tournament) (g : Nat) : Index := u.hist &&& mask g

/-- `tn_pidx(pc) = pc & mask(P)` (R141). -/
def tnPidx (p : Nat) (pc : Pc) : Index := pc &&& mask p

/-- `tn_lidx(pc) = TN_LHT[tn_pidx(pc)] & mask(L)` (R141). -/
def tnLidx (u : Tournament) (l p : Nat) (pc : Pc) : Index := u.lht.read (tnPidx p pc).toNat &&& mask l

/-- `tn_predict_global()` (R142). -/
def tnPredictGlobal (u : Tournament) (g : Nat) : Bool := pred2 (u.glob.read (tnGidx u g).toNat)

/-- `tn_predict_local(pc)` (R143). -/
def tnPredictLocal (u : Tournament) (l p : Nat) (pc : Pc) : Bool := pred2 (u.loc.read (tnLidx u l p pc).toNat)

/-- `tn_predict(pc)`: both sub-predictions are recorded; a chooser value of 2 or more selects local (R144). -/
def tnPredict (u : Tournament) (g l p : Nat) (pc : Pc) : Bool × Ctx :=
  let gi := tnGidx u g
  let gpred := tnPredictGlobal u g
  let lpred := tnPredictLocal u l p pc
  (if pred2 (u.chooser.read gi.toNat) then lpred else gpred,
   { Ctx.zero with gidx := gi, pidx := tnPidx p pc, lidx := tnLidx u l p pc, gpred := gpred, lpred := lpred })

/-- `tn_train` step (a), the chooser: toward local when only local was right, toward global when only global was (R145). -/
def tnTrainChooser (u : Tournament) (ctx : Ctx) (o : Bool) : Tournament :=
  let lc := ctx.lpred == o
  let gc := ctx.gpred == o
  if lc && !gc then { u with chooser := u.chooser.write ctx.gidx.toNat (bump2 (u.chooser.read ctx.gidx.toNat) true) }
  else if gc && !lc then { u with chooser := u.chooser.write ctx.gidx.toNat (bump2 (u.chooser.read ctx.gidx.toNat) false) }
  else u

/-- `tn_train` step (b), the local history, and the local counter at the NEW pattern (R146). -/
def tnTrainLocal (u : Tournament) (l : Nat) (ctx : Ctx) (o : Bool) : Tournament :=
  let np := hshift (u.lht.read ctx.pidx.toNat) o l
  { u with
    lht := u.lht.write ctx.pidx.toNat np
    loc := u.loc.write np.toNat (bump2 (u.loc.read np.toNat) o) }

/-- `tn_train` step (c), the global counter at the recorded index (R147). -/
def tnTrainGlobal (u : Tournament) (ctx : Ctx) (o : Bool) : Tournament :=
  { u with glob := u.glob.write ctx.gidx.toNat (bump2 (u.glob.read ctx.gidx.toNat) o) }

/-- `tn_train` step (d), the global history (R148). -/
def tnTrainHist (u : Tournament) (g : Nat) (o : Bool) : Tournament :=
  { u with hist := hshift u.hist o g }

/-- `tn_train(ctx, o)`: steps (a), (b), (c), (d) in this order (R149). -/
def tnTrain (u : Tournament) (g l : Nat) (ctx : Ctx) (o : Bool) : Tournament :=
  tnTrainHist (tnTrainGlobal (tnTrainLocal (tnTrainChooser u ctx o) l ctx o) ctx o) g o

/-- `tn_init()` (R150). -/
def tnInit (p : Params) : Tournament :=
  { glob := Table.filled p.tgInit
    loc := Table.filled p.tlInit
    lht := Table.filled 0
    chooser := Table.filled p.tcInit
    hist := 0 }

end Sys2Proof.Machine
end

