-- ==== Sys2Proof/Machine/Mux.lean ====
section
/-! DEFINITION. branch_predictor_mux (spec `44_mux.md`): the routing of PREDICT and TRAIN to the active unit, and the meaning
of every request command. -/

namespace Sys2Proof.Machine

/-- What PREDICT and TRAIN are answered where no scheme is active (R208, R210); none where one is. -/
def Mode.refusal : Mode → Option Status
  | .unconfigured => some .unconfigured
  | .error => some .cfgError
  | .static => none
  | .gshare => none
  | .tournament => none
  | .bimode => none

/-- The predict operation of the unit MODE names (R200). UNCONFIGURED and ERROR name none: `execPredict` has answered before
it comes here, and the value in these two arms is never used. -/
def State.unitPredict (s : State) (pc : Pc) : Bool × Ctx :=
  match s.mode with
  | .unconfigured => (false, Ctx.zero)
  | .error => (false, Ctx.zero)
  | .static => staticPredict pc
  | .gshare => gsPredict s.gs s.widthG pc
  | .tournament => tnPredict s.tn s.widthG s.widthL s.widthP pc
  | .bimode => bmPredict s.bm pc

/-- The train operation of the unit MODE names (R200). UNCONFIGURED and ERROR name none, as for `State.unitPredict`. -/
def State.unitTrain (s : State) (ctx : Ctx) (o : Bool) : State :=
  match s.mode with
  | .unconfigured => s
  | .error => s
  | .static => staticTrain s ctx o
  | .gshare => s.setGs (gsTrain s.gs s.widthG ctx o)
  | .tournament => s.setTn (tnTrain s.tn s.widthG s.widthL ctx o)
  | .bimode => s.setBm (bmTrain s.bm ctx o)

/-- NOP (R201). -/
def execNop (resv : BitVec 62) (s : State) : Host.Outcome State Fault Refusal :=
  if resv ≠ 0 then .next (s.respond .badRequest)
  else .next (s.respond .ok)

/-- INIT.STATIC (R202): G, L and P are ignored, and no unit's state changes. -/
def execInitStatic (_g _l _p : Width) (resv : BitVec 41) (s : State) : Host.Outcome State Fault Refusal :=
  if resv ≠ 0 then .next (s.respond .badRequest)
  else .next ((s.clearPcb.configure .static 0 0 0).respond .ok)

/-- INIT.GSHARE (R203): G is validated, L and P are ignored (R214). -/
def execInitGshare (g _l _p : Width) (resv : BitVec 41) (s : State) : Host.Outcome State Fault Refusal :=
  if resv ≠ 0 then .next (s.respond .badRequest)
  else if validW s.params g then
    .next (((s.clearPcb.configure .gshare g 0 0).setGs gsInit).respond .ok)
  else .next s.clearPcb.initFail

/-- INIT.TOURNAMENT (R204): G, L and P are validated (R214). -/
def execInitTournament (g l p : Width) (resv : BitVec 41) (s : State) : Host.Outcome State Fault Refusal :=
  if resv ≠ 0 then .next (s.respond .badRequest)
  else if validW s.params g && validW s.params l && validW s.params p then
    .next (((s.clearPcb.configure .tournament g l p).setTn (tnInit s.params)).respond .ok)
  else .next s.clearPcb.initFail

/-- INIT.BIMODE (R205): G, L and P are ignored, and the widths are the fixed ones. -/
def execInitBimode (_g _l _p : Width) (resv : BitVec 41) (s : State) : Host.Outcome State Fault Refusal :=
  if resv ≠ 0 then .next (s.respond .badRequest)
  else
    .next (((s.clearPcb.configure .bimode (BitVec.ofNat 6 Config.bimodeG) 0 (BitVec.ofNat 6 Config.bimodeP)).setBm
      (bmInit s.params)).respond .ok)

/-- INIT.INVALID (R207): an unrecognised scheme is a configuration error (R80). -/
def execInitInvalid (_scheme : BitVec 3) (_g _l _p : Width) (resv : BitVec 41) (s : State) :
    Host.Outcome State Fault Refusal :=
  if resv ≠ 0 then .next (s.respond .badRequest)
  else .next s.clearPcb.initFail

/-- PREDICT (R208): the checks in the order of R243, then a prediction of the active unit, recorded in the least free slot
(R209), whose number is the tag. -/
def execPredict (pc : Pc) (resv : BitVec 30) (s : State) : Host.Outcome State Fault Refusal :=
  if resv ≠ 0 then .next (s.respond .badRequest)
  else
    match s.mode.refusal with
    | some st => .next (s.respond st)
    | none =>
      match s.freeSlot with
      | none => .next (s.respond .busy)
      | some k =>
        let (taken, ctx) := s.unitPredict pc
        .next ((s.writeSlot k { ctx with valid := true, pc := pc }).respondWith .ok taken (BitVec.ofNat 8 k))

/-- TRAIN (R210): the checks in the order of R243, then the training of the active unit with the slot's context, and the slot
is freed. -/
def execTrain (o : Bool) (tag : Tag) (pc : Pc) (resvLo : BitVec 5) (resvHi : BitVec 16) (s : State) :
    Host.Outcome State Fault Refusal :=
  if resvLo ≠ 0 ∨ resvHi ≠ 0 then .next (s.respond .badRequest)
  else
    match s.mode.refusal with
    | some st => .next (s.respond st)
    | none =>
      if s.slotMatches tag pc then
        .next (((s.unitTrain (s.slot tag.toNat) o).writeSlot tag.toNat Ctx.zero).respond .ok)
      else .next (s.respond .protocolError)

end Sys2Proof.Machine
end

