-- ==== Sys2Proof/Machine/Dispatch.lean ====
section
/-! DEFINITION. One arm for each constructor of Instr: a direct call of its meaning. -/

namespace Sys2Proof.Machine

def exec (i : Instr) (s : State) : Host.Outcome State Fault Refusal :=
  match i with
  | .nop resv => Sys2Proof.Machine.execNop resv s
  | .initStatic g l p resv => Sys2Proof.Machine.execInitStatic g l p resv s
  | .initGshare g l p resv => Sys2Proof.Machine.execInitGshare g l p resv s
  | .initTournament g l p resv => Sys2Proof.Machine.execInitTournament g l p resv s
  | .initBimode g l p resv => Sys2Proof.Machine.execInitBimode g l p resv s
  | .initInvalid scheme g l p resv => Sys2Proof.Machine.execInitInvalid scheme g l p resv s
  | .predict pc resv => Sys2Proof.Machine.execPredict pc resv s
  | .train o tag pc resvLo resvHi => Sys2Proof.Machine.execTrain o tag pc resvLo resvHi s

end Sys2Proof.Machine
end

