-- ==== Sys2Proof/Machine/Step.lean ====
section
/-! DEFINITION. One step of the block: it takes the caller's next request and runs it whole (spec R55, R59, R279). -/

namespace Sys2Proof.Machine

/-- The next request of the caller is taken, decoded and run, in one atomic step (R55). With no request the block takes no
step and keeps its state (R253); the model's step is then an idle one (DESIGN CHOICE, log 2). -/
def step (s : State) : Host.Outcome State Fault Refusal :=
  match s.pending with
  | [] => .next s
  | w :: rest => exec (decode w) (s.dequeue rest)

/-- The state in which the next request is the table word `w` of `nbits` bits, the bits above them 0: the caller's list
starts with it (log 7). -/
def State.withFetchWord (s : State) (nbits w : Nat) : State :=
  { s with pending := BitVec.ofNat 64 (w % 2 ^ nbits) :: s.pending }

end Sys2Proof.Machine
end

