-- ==== Sys2Proof/Machine/Assembler.lean ====
section
/-! DEFINITION. The caller's side of the request interface: the assembler's request lines (spec R82) and the pseudo-instruction
RESOLVE (R83). The block itself never sees a line: it sees the request word. -/

namespace Sys2Proof.Machine

/-- A line of the assembler (R82) or the pseudo-instruction (R83). `code` is the scheme code: 0 to 3 for a name, 4 to 7 for a
number. -/
inductive AsmLine where
  | nop
  | init (code : BitVec 3) (g l p : Width)
  | predict (pc : Pc)
  | train (tag : Tag) (pc : Pc) (o : Bool)
  | resolve (pc : Pc) (o : Bool)
  deriving DecidableEq, Repr

/-- The request word of a line (R82); none for RESOLVE, which stands for two requests (R83). -/
def AsmLine.word : AsmLine → Option Request
  | .nop => some 0
  | .init code g l p => some ((1 : Request) ||| code.setWidth 64 <<< 2 ||| g.setWidth 64 <<< 5 ||| l.setWidth 64 <<< 11 ||| p.setWidth 64 <<< 17)
  | .predict pc => some ((2 : Request) ||| pc.setWidth 64 <<< 32)
  | .train tag pc o => some ((3 : Request) ||| (BitVec.ofBool o).setWidth 64 <<< 2 ||| tag.setWidth 64 <<< 8 ||| pc.setWidth 64 <<< 32)
  | .resolve _ _ => none

/-- The value of a digit in a base of at most 16. -/
def digitValue (base : Nat) (c : Char) : Option Nat :=
  let n := c.toNat
  let v :=
    if 48 ≤ n ∧ n ≤ 57 then some (n - 48)
    else if 97 ≤ n ∧ n ≤ 102 then some (n - 87)
    else if 65 ≤ n ∧ n ≤ 70 then some (n - 55)
    else none
  match v with
  | some d => if d < base then some d else none
  | none => none

/-- The digits after those that gave `acc`. -/
def readDigits (base : Nat) : List Char → Nat → Option Nat
  | [], acc => some acc
  | c :: rest, acc =>
    match digitValue base c with
    | some d => readDigits base rest (base * acc + d)
    | none => none

/-- A number in decimal, `0x` or `0b` form (R82), below `bound`. -/
def readNumber (bound : Nat) (cs : List Char) : Option Nat :=
  let v :=
    match cs with
    | [] => none
    | ['0', 'x'] => none
    | ['0', 'b'] => none
    | '0' :: 'x' :: ds => readDigits 16 ds 0
    | '0' :: 'b' :: ds => readDigits 2 ds 0
    | ds => readDigits 10 ds 0
  match v with
  | some n => if n < bound then some n else none
  | none => none

/-- The line's words: they end at spaces and tabs, and a comma is a word of its own (log 10). -/
def splitWords : List Char → List Char → List (List Char)
  | [], [] => []
  | [], word => [word.reverse]
  | c :: rest, word =>
    let before := if word.isEmpty then [] else [word.reverse]
    if c = ' ' ∨ c = '\t' then before ++ splitWords rest []
    else if c = ',' then before ++ [','] :: splitWords rest []
    else splitWords rest (c :: word)

/-- `<scheme>`: a name, or `#` and a number from 4 to 7 (R82). DESIGN CHOICE (log 10): R82 does not say whether its forms of
numbers hold after `#`; the number may be written in every one of them. -/
def readScheme (cs : List Char) : Option (BitVec 3) :=
  if cs = ['s', 't', 'a', 't', 'i', 'c'] then some 0
  else if cs = ['g', 's', 'h', 'a', 'r', 'e'] then some 1
  else if cs = ['t', 'o', 'u', 'r', 'n', 'a', 'm', 'e', 'n', 't'] then some 2
  else if cs = ['b', 'i', 'm', 'o', 'd', 'e'] then some 3
  else
    match cs with
    | '#' :: ds =>
      match readNumber 8 ds with
      | some n => if 4 ≤ n then some (BitVec.ofNat 3 n) else none
      | none => none
    | _ => none

/-- One operand `<letter>=<n>` after a comma, where the line has it next; an omitted operand is 0 (R82). The answer is the
width with the words that follow. -/
def readWidth (letter : Char) (words : List (List Char)) : Option (Width × List (List Char)) :=
  match words with
  | [','] :: (c :: '=' :: ds) :: rest =>
    if c = letter then
      match readNumber 64 ds with
      | some n => some (BitVec.ofNat 6 n, rest)
      | none => none
    else some (0, words)
  | _ => some (0, words)

/-- `T` or `N` (R82). -/
def readOutcome (cs : List Char) : Option Bool :=
  if cs = ['T'] then some true else if cs = ['N'] then some false else none

/-- The operands of INIT after the scheme: `, G=<g>, L=<l>, P=<p>`, each of them omitted or not (R82). -/
def readInit (code : BitVec 3) (words : List (List Char)) : Option AsmLine :=
  match readWidth 'G' words with
  | none => none
  | some (g, rest) =>
    match readWidth 'L' rest with
    | none => none
    | some (l, rest) =>
      match readWidth 'P' rest with
      | some (p, []) => some (.init code g l p)
      | _ => none

/-- A line of the assembler, from its characters (R82, R83); none for anything else. -/
def readLine (line : List Char) : Option AsmLine :=
  match splitWords line [] with
  | [['N', 'O', 'P']] => some .nop
  | ['I', 'N', 'I', 'T'] :: scheme :: rest =>
    match readScheme scheme with
    | some code => readInit code rest
    | none => none
  | [['P', 'R', 'E', 'D', 'I', 'C', 'T'], pc] =>
    match readNumber (2 ^ 32) pc with
    | some n => some (.predict (BitVec.ofNat 32 n))
    | none => none
  | [['T', 'R', 'A', 'I', 'N'], tag, [','], pc, [','], o] =>
    match readNumber 256 tag, readNumber (2 ^ 32) pc, readOutcome o with
    | some t, some n, some b => some (.train (BitVec.ofNat 8 t) (BitVec.ofNat 32 n) b)
    | _, _, _ => none
  | [['R', 'E', 'S', 'O', 'L', 'V', 'E'], pc, [','], o] =>
    match readNumber (2 ^ 32) pc, readOutcome o with
    | some n, some b => some (.resolve (BitVec.ofNat 32 n) b)
    | _, _ => none
  | _ => none

/-- `RESOLVE <pc>, T|N`: a PREDICT, and then, if it responded OK, a TRAIN with the tag of that response; no other request comes
between the two (R83; log 11). -/
def resolve (pc : Pc) (o : Bool) (s : State) : Host.Outcome State Fault Refusal :=
  match exec (.predict pc 0) s with
  | .next s1 =>
    match s1.responses with
    | r :: _ => if responseStatus r = 0 then exec (.train o (responseTag r) pc 0 0) s1 else .next s1
    | [] => .next s1
  | .fault f => .fault f
  | .refused r => .refused r

end Sys2Proof.Machine
end

