-- ==== Sys2Proof/Safety.lean ====
section
/-! DEFINITION. What a good state and a good run are, in the terms the statements use: the invariants of spec R35, the
single-outstanding-prediction facts of R125, R151 and R178, and states that differ only in what R272 says no one can observe. -/

namespace Sys2Proof.Machine

/-- CFG_G, CFG_L and CFG_P hold what R24 gives for the MODE. -/
abbrev State.cfgAsMode (s : State) : Prop :=
  (s.mode = .unconfigured ∨ s.mode = .error ∨ s.mode = .static → s.cfgG = 0 ∧ s.cfgL = 0 ∧ s.cfgP = 0) ∧
  (s.mode = .gshare → validW s.params s.cfgG = true ∧ s.cfgL = 0 ∧ s.cfgP = 0) ∧
  (s.mode = .tournament →
    validW s.params s.cfgG = true ∧ validW s.params s.cfgL = true ∧ validW s.params s.cfgP = true) ∧
  (s.mode = .bimode → s.cfgG = 11 ∧ s.cfgL = 0 ∧ s.cfgP = 11)

/-- Every table is in its one canonical form. -/
abbrev State.tablesWf (s : State) : Prop :=
  s.pcb.wf ∧ s.gs.table.wf ∧
  (s.tn.glob.wf ∧ s.tn.loc.wf ∧ s.tn.lht.wf ∧ s.tn.chooser.wf) ∧
  (s.bm.taken.wf ∧ s.bm.notTaken.wf ∧ s.bm.chooser.wf)

/-- Every pattern of the local-history table is below `2^n`. -/
abbrev Table.patternsBelow (t : Table History) (n : Nat) : Prop :=
  t.fill.toNat < 2 ^ n ∧ ∀ c ∈ t.cells, c.2.toNat < 2 ^ n

/-- The active unit's tables list only entries of their active regions (R31), its history is below `2^CFG_G` (R35 b), and every
local-history pattern is below `2^CFG_L` (R35 c). -/
abbrev State.unitInRange (s : State) : Prop :=
  (s.mode = .gshare → s.gs.table.within s.widthG ∧ s.gs.hist.toNat < 2 ^ s.widthG) ∧
  (s.mode = .tournament →
    s.tn.glob.within s.widthG ∧ s.tn.chooser.within s.widthG ∧ s.tn.loc.within s.widthL ∧ s.tn.lht.within s.widthP ∧
    s.tn.lht.patternsBelow s.widthL ∧ s.tn.hist.toNat < 2 ^ s.widthG) ∧
  (s.mode = .bimode →
    s.bm.taken.within 11 ∧ s.bm.notTaken.within 11 ∧ s.bm.chooser.within 11 ∧ s.bm.hist.toNat < 2 ^ 11)

/-- Every index of a slot is below the size of the table it indexes in this mode (R35 d), and every field the mode does not use
is 0 (R33). -/
abbrev State.ctxInRange (s : State) (c : Ctx) : Prop :=
  (s.mode = .static → c = { Ctx.zero with valid := true, pc := c.pc }) ∧
  (s.mode = .gshare → c.gidx.toNat < 2 ^ s.widthG ∧ c = { Ctx.zero with valid := true, pc := c.pc, gidx := c.gidx }) ∧
  (s.mode = .tournament →
    c.gidx.toNat < 2 ^ s.widthG ∧ c.pidx.toNat < 2 ^ s.widthP ∧ c.lidx.toNat < 2 ^ s.widthL ∧
    c = { Ctx.zero with valid := true, pc := c.pc, gidx := c.gidx, pidx := c.pidx, lidx := c.lidx, gpred := c.gpred, lpred := c.lpred }) ∧
  (s.mode = .bimode →
    c.didx.toNat < 2 ^ 11 ∧ c.cidx.toNat < 2 ^ 11 ∧
    c = { Ctx.zero with valid := true, pc := c.pc, didx := c.didx, cidx := c.cidx, sel := c.sel, selpred := c.selpred })

/-- The prediction-context buffer: a slot that is not listed is all-zero; the listed ones are slots of the buffer and hold
outstanding predictions of the mode, so there are none where no scheme is active (R33, R35 d). -/
abbrev State.pcbInRange (s : State) : Prop :=
  s.pcb.fill = Ctx.zero ∧
  ∀ c ∈ s.pcb.cells, c.1 < s.params.nslot ∧ s.mode.refusal = none ∧ c.2.valid = true ∧ s.ctxInRange c.2

/-- The invariants that hold in every reachable state (R24, R33, R35). -/
structure State.Inv (s : State) : Prop where
  /-- the parameters are legal (R7) -/
  params : s.params.legal
  /-- the configuration registers are as the mode has them (R24) -/
  cfg : s.cfgAsMode
  /-- every table is in its canonical form -/
  tables : s.tablesWf
  /-- the active unit's values are in range (R35 b, c) -/
  unit : s.unitInRange
  /-- every outstanding prediction's indices are in range (R35 d) -/
  pcb : s.pcbInRange

/-- If slot `k` is valid, it holds what a PREDICT of its pc would record now (R125, R151). -/
abbrev State.slotFresh (s : State) (k : Nat) : Prop :=
  (s.slot k).valid = true →
    s.mode.refusal = none ∧ s.slot k = { (s.unitPredict (s.slot k).pc).2 with valid := true, pc := (s.slot k).pc }

/-- There is one slot (`W_SEQ = 0`), and it is fresh: the case R125 and R151 give as the one that always holds. -/
abbrev State.freshContext (s : State) : Prop := s.params.wSeq = 0 ∧ s.slotFresh 0

/-- Every Bimode chooser entry is from `BC_INIT` to 4 while the Bimode unit is active (R178). -/
abbrev State.chooserBetween (s : State) : Prop :=
  s.mode = .bimode →
    (s.params.bcInit ≤ s.bm.chooser.fill ∧ s.bm.chooser.fill ≤ 4) ∧
    ∀ c ∈ s.bm.chooser.cells, s.params.bcInit ≤ c.2 ∧ c.2 ≤ 4

/-- The two states are the same but for the contents of units that are not active (R32), which after reset are unspecified
(R34). In UNCONFIGURED, ERROR and STATIC no unit is active. -/
abbrev State.sameButInactive (s t : State) : Prop :=
  s.params = t.params ∧ s.mode = t.mode ∧ s.cfgG = t.cfgG ∧ s.cfgL = t.cfgL ∧ s.cfgP = t.cfgP ∧ s.pcb = t.pcb ∧
  s.pending = t.pending ∧ s.responses = t.responses ∧
  (s.mode = .gshare → s.gs = t.gs) ∧ (s.mode = .tournament → s.tn = t.tn) ∧ (s.mode = .bimode → s.bm = t.bm)

/-- Every response returned has status OK: the premise R247 gives for claims about the source's single-caller design. -/
abbrev State.allOk (s : State) : Prop := ∀ r ∈ s.responses, responseStatus r = 0

end Sys2Proof.Machine
end

