-- ==== Sys2Proof/Certificates/Slice0/Obligations.lean ====
section
/-! DEFINITION. The statements about the block, from the numbered rules of the spec. Each holds for every legal value of the
open parameters, which a state carries. `t = { s with … }` says the frame: every field not named is unchanged. Response words
are written as numbers where they are fixed: 0 OK, 1 BAD_REQUEST, 2 UNCONFIGURED, 3 CFG_ERROR, 4 BUSY, 5 PROTOCOL_ERROR. -/

open Sys2Proof Sys2Proof.Machine

/-! ## Encoding -/

/-- Words of `95_test_vectors.md` V14 and of R82, one or more for each row of R78, and what they decode to. -/
def Obligations.SpecWordsDecodeToTheirCommands : Prop :=
  decode 0x0000000000000000 = .nop 0 ∧ decode 0x8000000000000000 = .nop 0x2000000000000000 ∧
  decode 0x0000000000000001 = .initStatic 0 0 0 0 ∧ decode 0x0000000000800001 = .initStatic 0 0 0 1 ∧
  decode 0x0000000000000045 = .initGshare 2 0 0 0 ∧ decode 0x00000000007FF825 = .initGshare 1 63 63 0 ∧
  decode 0x0000000000041049 = .initTournament 2 2 2 0 ∧ decode 0x0000000000040049 = .initTournament 2 0 2 0 ∧
  decode 0x000000000000000D = .initBimode 0 0 0 0 ∧ decode 0x00000000007FFFED = .initBimode 63 63 63 0 ∧
  decode 0x0000000000000011 = .initInvalid 4 0 0 0 0 ∧ decode 0x00000000000000BD = .initInvalid 7 5 0 0 0 ∧
  decode 0x0000000A00000002 = .predict 0xA 0 ∧ decode 0x0000004000000006 = .predict 0x40 1 ∧
  decode 0x0000000A00000007 = .train true 0 0xA 0 0 ∧ decode 0x0000004000000107 = .train true 1 0x40 0 0 ∧
  decode 0x000000400000000B = .train false 0 0x40 1 0 ∧ decode 0x0000004000010003 = .train false 0 0x40 0 1

/-- R78: every word matches exactly one row of the opcode map, the row of the command it decodes to. -/
def Obligations.EveryWordMatchesExactlyOneRow : Prop :=
  opcodeTable =
    [⟨"NOP", 0x0, 0x3, 0xFFFFFFFFFFFFFFFC⟩, ⟨"INIT.STATIC", 0x1, 0x1F, 0xFFFFFFFFFF800000⟩,
     ⟨"INIT.GSHARE", 0x5, 0x1F, 0xFFFFFFFFFF800000⟩, ⟨"INIT.TOURNAMENT", 0x9, 0x1F, 0xFFFFFFFFFF800000⟩,
     ⟨"INIT.BIMODE", 0xD, 0x1F, 0xFFFFFFFFFF800000⟩, ⟨"INIT.INVALID", 0x11, 0x13, 0xFFFFFFFFFF800000⟩,
     ⟨"PREDICT", 0x2, 0x3, 0x00000000FFFFFFFC⟩, ⟨"TRAIN", 0x3, 0x3, 0x00000000FFFF00F8⟩] ∧
  ∀ w : Request, (decode w).wf = true ∧ opcodeTable.filter (fun r => r.matchesWord w) = [rowOf (decode w)]

/-- Decoding an encoded well-formed command gives it back, every field at every value, the reserved ones too. -/
def Obligations.DecodeOfEncodeIsIdentity : Prop := ∀ i : Instr, i.wf = true → decode (encode i) = i

/-- Every word is the encoding of the command it decodes to: no bit of a request is dropped. -/
def Obligations.EncodeOfDecodeIsIdentity : Prop := ∀ w : Request, encode (decode w) = w

/-- R71, R77: `cmd` selects the format, and every field is the unsigned number its bits are. -/
def Obligations.FieldsAreTheNumbersTheirBitsAre : Prop :=
  ∀ w : Request,
    (w.toNat % 4 = 0 → ∃ r : BitVec 62, decode w = .nop r ∧ r.toNat = w.toNat / 2 ^ 2) ∧
    (w.toNat % 4 = 1 → ∃ (g l p : Width) (r : BitVec 41),
      (g.toNat = w.toNat / 2 ^ 5 % 2 ^ 6 ∧ l.toNat = w.toNat / 2 ^ 11 % 2 ^ 6 ∧ p.toNat = w.toNat / 2 ^ 17 % 2 ^ 6 ∧
        r.toNat = w.toNat / 2 ^ 23) ∧
      (w.toNat / 4 % 8 = 0 → decode w = .initStatic g l p r) ∧
      (w.toNat / 4 % 8 = 1 → decode w = .initGshare g l p r) ∧
      (w.toNat / 4 % 8 = 2 → decode w = .initTournament g l p r) ∧
      (w.toNat / 4 % 8 = 3 → decode w = .initBimode g l p r) ∧
      (4 ≤ w.toNat / 4 % 8 → ∃ c : BitVec 3, c.toNat = w.toNat / 4 % 8 ∧ decode w = .initInvalid c g l p r)) ∧
    (w.toNat % 4 = 2 → ∃ (pc : Pc) (r : BitVec 30), decode w = .predict pc r ∧
      pc.toNat = w.toNat / 2 ^ 32 ∧ r.toNat = w.toNat / 2 ^ 2 % 2 ^ 30) ∧
    (w.toNat % 4 = 3 → ∃ (o : Bool) (tag : Tag) (pc : Pc) (lo : BitVec 5) (hi : BitVec 16), decode w = .train o tag pc lo hi ∧
      o.toNat = w.toNat / 2 ^ 2 % 2 ∧ tag.toNat = w.toNat / 2 ^ 8 % 2 ^ 8 ∧ pc.toNat = w.toNat / 2 ^ 32 ∧
      lo.toNat = w.toNat / 2 ^ 3 % 2 ^ 5 ∧ hi.toNat = w.toNat / 2 ^ 16 % 2 ^ 16)

/-- R79: a request with a bit of its command's reserved-zero mask set changes no state and responds with BAD_REQUEST, before
every other check; one without has a legal command. -/
def Obligations.ReservedBitsGiveBadRequest : Prop :=
  ∀ (w : Request) (mask : Request),
    (w &&& 3 = 0 → mask = 0xFFFFFFFFFFFFFFFC) → (w &&& 3 = 1 → mask = 0xFFFFFFFFFF800000) →
    (w &&& 3 = 2 → mask = 0x00000000FFFFFFFC) → (w &&& 3 = 3 → mask = 0x00000000FFFF00F8) →
    (w &&& mask ≠ 0 → ∀ s : State, exec (decode w) s = .next { s with responses := 1 :: s.responses }) ∧
    (w &&& mask = 0 → (decode w).legal = true)

/-- R82's request words: the word of each parsed assembler line decodes to its command, with no reserved bit set. -/
def Obligations.AssembledLinesDecodeToTheirCommands : Prop :=
  (AsmLine.word .nop).map decode = some (.nop 0) ∧
  (∀ g l p : Width,
    ((AsmLine.init 0 g l p).word.map decode = some (.initStatic g l p 0)) ∧
    ((AsmLine.init 1 g l p).word.map decode = some (.initGshare g l p 0)) ∧
    ((AsmLine.init 2 g l p).word.map decode = some (.initTournament g l p 0)) ∧
    ((AsmLine.init 3 g l p).word.map decode = some (.initBimode g l p 0)) ∧
    (∀ c : BitVec 3, 4 ≤ c.toNat → (AsmLine.init c g l p).word.map decode = some (.initInvalid c g l p 0))) ∧
  (∀ pc : Pc, (AsmLine.predict pc).word.map decode = some (.predict pc 0)) ∧
  (∀ (tag : Tag) (pc : Pc) (o : Bool), (AsmLine.train tag pc o).word.map decode = some (.train o tag pc 0 0))

/-! ## The step and the response -/

/-- When the next request of the caller decodes to `i`, a step is `exec i` with that request taken off the list (the list is the
model's form of R14's caller, log 1). -/
def Obligations.StepRunsTheDecodedRequest : Prop :=
  ∀ (s : State) (w : Request) (rest : List Request) (i : Instr),
    s.pending = w :: rest → decode w = i → step s = exec i { s with pending := rest }

/-- With no request, all state persists: R253's sentence, for the idle step that is the model's choice (log 2). -/
def Obligations.WithoutRequestStateStays : Prop := ∀ s : State, s.pending = [] → step s = .next s

/-- R70 and R279 in the model's form (log 1): a step takes one request and gives exactly one response to it, whatever the request
and the state. -/
def Obligations.EachRequestGetsOneResponseInOneStep : Prop :=
  ∀ (s : State) (w : Request) (rest : List Request), s.pending = w :: rest →
    ∃ (t : State) (r : Response), step s = .next t ∧ t.responses = r :: s.responses ∧ t.pending = rest

/-- R76: a response word carries its three fields and zeros, its status is a code from 0 to 5, and taken and tag are 0 but in an
OK response to PREDICT. -/
def Obligations.ResponseWordLayout : Prop :=
  (∀ (st : Status) (taken : Bool) (tag : Tag),
    (responseWord st taken tag).toNat = tag.toNat * 2 ^ 8 + taken.toNat * 2 ^ 3 + st.code.toNat) ∧
  (∀ (i : Instr) (s t : State) (r : Response), exec i s = .next t → t.responses = r :: s.responses →
    (responseStatus r).toNat ≤ 5 ∧ r &&& 0xFFFF00F0 = 0 ∧
    (responseTaken r = true ∨ responseTag r ≠ 0 → responseStatus r = 0 ∧ ∃ pc : Pc, i = .predict pc 0))

/-! ## saturating_counter_2bit, saturating_counter_3bit, history_register_shifter -/

/-- R101, R102: the 2-bit counter's clamped bump, and its read-out at 2 or more. -/
def Obligations.TwoBitCounterBumpAndReadOut : Prop :=
  ∀ (v : Counter2) (d : Bool),
    (bump2 v d).toNat = (if d then min (v.toNat + 1) 3 else max (v.toNat - 1) 0) ∧ (pred2 v = true ↔ 2 ≤ v.toNat)

/-- R104, R105: the 3-bit counter's clamped bump, and its read-out at 4 or more. -/
def Obligations.ThreeBitCounterBumpAndReadOut : Prop :=
  ∀ (v : Counter3) (d : Bool),
    (bump3 v d).toNat = (if d then min (v.toNat + 1) 7 else max (v.toNat - 1) 0) ∧ (pred3 v = true ↔ 4 ≤ v.toNat)

/-- R106: both counters are the bounded counter of width n, at n = 2 and n = 3. -/
def Obligations.CountersAreOneBoundedCounter : Prop :=
  (∀ (n : Nat) (v : BitVec n) (d : Bool),
    (bump v d).toNat = (if d then min (v.toNat + 1) (2 ^ n - 1) else max (v.toNat - 1) 0) ∧
    (readOut v = true ↔ 2 ^ (n - 1) ≤ v.toNat)) ∧
  (∀ (v : Counter2) (d : Bool), bump2 v d = bump v d ∧ (pred2 v = true ↔ 2 ≤ v.toNat)) ∧
  (∀ (v : Counter3) (d : Bool), bump3 v d = bump v d ∧ (pred3 v = true ↔ 4 ≤ v.toNat))

/-- R107: the shift appends the outcome below the history and keeps n bits. -/
def Obligations.HistoryShiftAppendsTheOutcome : Prop :=
  ∀ (h : History) (o : Bool) (n : Nat), 1 ≤ n → n ≤ 32 → h.toNat < 2 ^ n →
    (hshift h o n).toNat = (2 * h.toNat + o.toNat) % 2 ^ n

/-- R109 (a) to (d), for the counter of every width and so for 2 and 3. In (d) `os` lists the outcomes, the oldest first. -/
def Obligations.CounterAndShifterLaws : Prop :=
  (∀ (h : History) (o : Bool) (n : Nat), (hshift h o n).toNat < 2 ^ n) ∧
  (∀ (n : Nat) (v : BitVec n) (k : Nat), 2 ^ n - 1 ≤ k →
    ((fun x => bump x true)^[k] v).toNat = 2 ^ n - 1 ∧ ((fun x => bump x false)^[k] v).toNat = 0) ∧
  (∀ (n : Nat) (v : BitVec n) (d : Bool), readOut v = d → readOut (bump v d) = d) ∧
  (∀ (n : Nat) (h : History) (os : List Bool), 1 ≤ n → n ≤ 32 → n ≤ os.length →
    ∀ i < 32, (os.foldl (fun x o => hshift x o n) h).getLsbD i = (decide (i < n) && os.reverse.getD i false))

/-! ## NOP and INIT -/

/-- R201: NOP, in every mode, changes nothing and responds OK. -/
def Obligations.NopOnlyResponds : Prop :=
  ∀ (s : State) (resv : BitVec 62),
    exec (.nop resv) s = .next { s with responses := (if resv = 0 then 0 else 1) :: s.responses }

/-- R202: INIT.STATIC clears every slot, selects STATIC with all widths 0, and changes no unit. -/
def Obligations.InitStaticSelectsStatic : Prop :=
  ∀ (s : State) (g l p : Width) (resv : BitVec 41),
    (resv ≠ 0 → exec (.initStatic g l p resv) s = .next { s with responses := 1 :: s.responses }) ∧
    (resv = 0 → ∃ t : State, exec (.initStatic g l p resv) s = .next t ∧ (∀ k, t.slot k = Ctx.zero) ∧
      t = { s with mode := .static, cfgG := 0, cfgL := 0, cfgP := 0, pcb := t.pcb, responses := 0 :: s.responses })

/-- From R203 and R124: INIT.GSHARE sets every entry to 1 and the history to 0; with a width R213 does not allow it fails as R207
says. That the entries from `2^G` up read 1 too is the model's choice (log 5): U9 leaves them any value. -/
def Obligations.InitGshareSelectsGshare : Prop :=
  ∀ (s : State) (g l p : Width) (resv : BitVec 41),
    (resv ≠ 0 → exec (.initGshare g l p resv) s = .next { s with responses := 1 :: s.responses }) ∧
    (resv = 0 → 1 ≤ g.toNat → g.toNat ≤ s.params.wIdxMax →
      ∃ t : State, exec (.initGshare g l p resv) s = .next t ∧
        (∀ i, t.gs.table.read i = 1) ∧ t.gs.hist = 0 ∧ (∀ k, t.slot k = Ctx.zero) ∧
        t = { s with
          mode := .gshare, cfgG := g, cfgL := 0, cfgP := 0, pcb := t.pcb, gs := t.gs, responses := 0 :: s.responses }) ∧
    (resv = 0 → g.toNat = 0 ∨ s.params.wIdxMax < g.toNat →
      ∃ t : State, exec (.initGshare g l p resv) s = .next t ∧ (∀ k, t.slot k = Ctx.zero) ∧
        t = { s with mode := .error, cfgG := 0, cfgL := 0, cfgP := 0, pcb := t.pcb, responses := 3 :: s.responses })

/-- From R204 and R150: INIT.TOURNAMENT sets its tables to the parameters' values and its histories to 0; with a width R213 does
not allow it fails as R207 says. That the entries outside the active regions `2^G`, `2^L` and `2^P` read so too is the model's
choice (log 5): U9 leaves them any value. -/
def Obligations.InitTournamentSelectsTournament : Prop :=
  ∀ (s : State) (g l p : Width) (resv : BitVec 41),
    (resv ≠ 0 → exec (.initTournament g l p resv) s = .next { s with responses := 1 :: s.responses }) ∧
    (resv = 0 → (∀ w ∈ [g, l, p], 1 ≤ w.toNat ∧ w.toNat ≤ s.params.wIdxMax) →
      ∃ t : State, exec (.initTournament g l p resv) s = .next t ∧
        (∀ i, t.tn.glob.read i = s.params.tgInit) ∧ (∀ i, t.tn.chooser.read i = s.params.tcInit) ∧
        (∀ i, t.tn.loc.read i = s.params.tlInit) ∧ (∀ j, t.tn.lht.read j = 0) ∧ t.tn.hist = 0 ∧
        (∀ k, t.slot k = Ctx.zero) ∧
        t = { s with
          mode := .tournament, cfgG := g, cfgL := l, cfgP := p, pcb := t.pcb, tn := t.tn, responses := 0 :: s.responses }) ∧
    (resv = 0 → (∃ w ∈ [g, l, p], w.toNat = 0 ∨ s.params.wIdxMax < w.toNat) →
      ∃ t : State, exec (.initTournament g l p resv) s = .next t ∧ (∀ k, t.slot k = Ctx.zero) ∧
        t = { s with mode := .error, cfgG := 0, cfgL := 0, cfgP := 0, pcb := t.pcb, responses := 3 :: s.responses })

/-- From R205 and R177: INIT.BIMODE sets its tables to 2, 1 and `BC_INIT`, its history to 0, and the widths to 11. That a read at
an index from `2^11` up, which no rule makes, gives the same is the model's choice (log 5). -/
def Obligations.InitBimodeSelectsBimode : Prop :=
  ∀ (s : State) (g l p : Width) (resv : BitVec 41),
    (resv ≠ 0 → exec (.initBimode g l p resv) s = .next { s with responses := 1 :: s.responses }) ∧
    (resv = 0 → ∃ t : State, exec (.initBimode g l p resv) s = .next t ∧
      (∀ i, t.bm.taken.read i = 2) ∧ (∀ i, t.bm.notTaken.read i = 1) ∧ (∀ i, t.bm.chooser.read i = s.params.bcInit) ∧
      t.bm.hist = 0 ∧ (∀ k, t.slot k = Ctx.zero) ∧
      t = { s with
        mode := .bimode, cfgG := 11, cfgL := 0, cfgP := 11, pcb := t.pcb, bm := t.bm, responses := 0 :: s.responses })

/-- R207, for INIT.INVALID: an unrecognised scheme fails the INIT, and no unit's state changes. -/
def Obligations.InitInvalidEntersError : Prop :=
  ∀ (s : State) (scheme : BitVec 3) (g l p : Width) (resv : BitVec 41),
    (resv ≠ 0 → exec (.initInvalid scheme g l p resv) s = .next { s with responses := 1 :: s.responses }) ∧
    (resv = 0 → ∃ t : State, exec (.initInvalid scheme g l p resv) s = .next t ∧ (∀ k, t.slot k = Ctx.zero) ∧
      t = { s with mode := .error, cfgG := 0, cfgL := 0, cfgP := 0, pcb := t.pcb, responses := 3 :: s.responses })

/-- R277, for a successful INIT: a TRAIN for any earlier prediction responds PROTOCOL_ERROR and trains nothing. -/
def Obligations.InitDiscardsOutstandingPredictions : Prop :=
  ∀ (i : Instr) (s t : State) (o : Bool) (tag : Tag) (pc : Pc),
    ((∃ g l p r, i = .initStatic g l p r) ∨ (∃ g l p r, i = .initGshare g l p r) ∨
      (∃ g l p r, i = .initTournament g l p r) ∨ (∃ g l p r, i = .initBimode g l p r)) →
    exec i s = .next t → t.responses = 0 :: s.responses →
    exec (.train o tag pc 0 0) t = .next { t with responses := 5 :: t.responses }

/-! ## PREDICT -/

/-- R208, its exceptions: where PREDICT predicts nothing, it responds with taken = 0 and tag = 0 and changes nothing. -/
def Obligations.PredictIsTurnedAway : Prop :=
  ∀ (s : State) (pc : Pc) (resv : BitVec 30),
    (resv ≠ 0 → exec (.predict pc resv) s = .next { s with responses := 1 :: s.responses }) ∧
    (resv = 0 → s.mode = .unconfigured → exec (.predict pc resv) s = .next { s with responses := 2 :: s.responses }) ∧
    (resv = 0 → s.mode = .error → exec (.predict pc resv) s = .next { s with responses := 3 :: s.responses }) ∧
    (resv = 0 → s.mode ≠ .unconfigured → s.mode ≠ .error → (∀ k < s.params.nslot, (s.slot k).valid = true) →
      exec (.predict pc resv) s = .next { s with responses := 4 :: s.responses })

/-- R209: the free slot is the least one that is not valid, and there is none exactly if every slot is valid. -/
def Obligations.FreeSlotIsTheLeast : Prop :=
  ∀ (s : State) (k : Nat),
    (s.freeSlot = some k ↔
      k < s.params.nslot ∧ (s.slot k).valid = false ∧ ∀ j < k, (s.slot j).valid = true) ∧
    (s.freeSlot = none ↔ ∀ j < s.params.nslot, (s.slot j).valid = true)

/-- R211, by R208's allocation: PREDICT in STATIC answers taken and takes the least free slot. -/
def Obligations.PredictInStatic : Prop :=
  ∀ (s : State) (pc : Pc) (k : Nat), s.Inv → s.mode = .static → s.freeSlot = some k →
    ∃ (t : State) (tag : Tag), exec (.predict pc 0) s = .next t ∧ tag.toNat = k ∧
      t.slot k = { Ctx.zero with valid := true, pc := pc } ∧ (∀ j, j ≠ k → t.slot j = s.slot j) ∧
      t = { s with pcb := t.pcb, responses := responseWord .ok true tag :: s.responses }

/-- R121, R122, by R208's allocation: PREDICT in GSHARE reads the counter at `(pc ^ GS_H)` masked to G bits. -/
def Obligations.PredictInGshare : Prop :=
  ∀ (s : State) (pc : Pc) (k : Nat), s.Inv → s.mode = .gshare → s.freeSlot = some k →
    ∃ (t : State) (tag : Tag) (i : Index), exec (.predict pc 0) s = .next t ∧ tag.toNat = k ∧
      i.toNat = (pc ^^^ s.gs.hist).toNat % 2 ^ s.widthG ∧
      t.slot k = { Ctx.zero with valid := true, pc := pc, gidx := i } ∧ (∀ j, j ≠ k → t.slot j = s.slot j) ∧
      t = { s with
        pcb := t.pcb, responses := responseWord .ok (decide (2 ≤ (s.gs.table.read i.toNat).toNat)) tag :: s.responses }

/-- R141 to R144, by R208's allocation: PREDICT in TOURNAMENT records both sub-predictions, and the chooser selects local at 2 or
more. -/
def Obligations.PredictInTournament : Prop :=
  ∀ (s : State) (pc : Pc) (k : Nat), s.Inv → s.mode = .tournament → s.freeSlot = some k →
    ∃ (t : State) (tag : Tag) (gi pi li : Index) (gpred lpred : Bool), exec (.predict pc 0) s = .next t ∧ tag.toNat = k ∧
      gi.toNat = s.tn.hist.toNat % 2 ^ s.widthG ∧
      pi.toNat = pc.toNat % 2 ^ s.widthP ∧
      li.toNat = (s.tn.lht.read pi.toNat).toNat % 2 ^ s.widthL ∧
      gpred = decide (2 ≤ (s.tn.glob.read gi.toNat).toNat) ∧
      lpred = decide (2 ≤ (s.tn.loc.read li.toNat).toNat) ∧
      t.slot k = { Ctx.zero with
        valid := true, pc := pc, gidx := gi, pidx := pi, lidx := li, gpred := gpred, lpred := lpred } ∧
      (∀ j, j ≠ k → t.slot j = s.slot j) ∧
      t = { s with
        pcb := t.pcb,
        responses := responseWord .ok (if 2 ≤ (s.tn.chooser.read gi.toNat).toNat then lpred else gpred) tag :: s.responses }

/-- R171, R172, by R208's allocation: PREDICT in BIMODE answers with the table the chooser selects. -/
def Obligations.PredictInBimode : Prop :=
  ∀ (s : State) (pc : Pc) (k : Nat), s.Inv → s.mode = .bimode → s.freeSlot = some k →
    ∃ (t : State) (tag : Tag) (di ci : Index) (sel selpred : Bool), exec (.predict pc 0) s = .next t ∧ tag.toNat = k ∧
      di.toNat = (pc ^^^ s.bm.hist).toNat % 2 ^ 11 ∧
      ci.toNat = pc.toNat % 2 ^ 11 ∧
      sel = decide (4 ≤ (s.bm.chooser.read ci.toNat).toNat) ∧
      selpred = (if sel then decide (2 ≤ (s.bm.taken.read di.toNat).toNat)
        else decide (2 ≤ (s.bm.notTaken.read di.toNat).toNat)) ∧
      t.slot k = { Ctx.zero with valid := true, pc := pc, didx := di, cidx := ci, sel := sel, selpred := selpred } ∧
      (∀ j, j ≠ k → t.slot j = s.slot j) ∧
      t = { s with pcb := t.pcb, responses := responseWord .ok selpred tag :: s.responses }

/-! ## TRAIN -/

/-- R210, its exceptions: where TRAIN trains nothing, it responds and changes nothing. -/
def Obligations.TrainIsTurnedAway : Prop :=
  ∀ (s : State) (o : Bool) (tag : Tag) (pc : Pc) (lo : BitVec 5) (hi : BitVec 16),
    (lo ≠ 0 ∨ hi ≠ 0 → exec (.train o tag pc lo hi) s = .next { s with responses := 1 :: s.responses }) ∧
    (lo = 0 → hi = 0 → s.mode = .unconfigured →
      exec (.train o tag pc lo hi) s = .next { s with responses := 2 :: s.responses }) ∧
    (lo = 0 → hi = 0 → s.mode = .error →
      exec (.train o tag pc lo hi) s = .next { s with responses := 3 :: s.responses }) ∧
    (lo = 0 → hi = 0 → s.mode ≠ .unconfigured → s.mode ≠ .error →
      s.params.nslot ≤ tag.toNat ∨ (s.slot tag.toNat).valid = false ∨ (s.slot tag.toNat).pc ≠ pc →
      exec (.train o tag pc lo hi) s = .next { s with responses := 5 :: s.responses })

/-- R212, in R210's frame: TRAIN in STATIC only frees the slot. -/
def Obligations.TrainInStatic : Prop :=
  ∀ (s : State) (o : Bool) (tag : Tag) (pc : Pc), s.Inv → s.mode = .static →
    tag.toNat < s.params.nslot → (s.slot tag.toNat).valid = true → (s.slot tag.toNat).pc = pc →
    ∃ t : State, exec (.train o tag pc 0 0) s = .next t ∧
      t.slot tag.toNat = Ctx.zero ∧ (∀ j, j ≠ tag.toNat → t.slot j = s.slot j) ∧
      t = { s with pcb := t.pcb, responses := 0 :: s.responses }

/-- R123, in R210's frame: TRAIN in GSHARE bumps the recorded entry and shifts the history. -/
def Obligations.TrainInGshare : Prop :=
  ∀ (s : State) (o : Bool) (tag : Tag) (pc : Pc), s.Inv → s.mode = .gshare →
    tag.toNat < s.params.nslot → (s.slot tag.toNat).valid = true → (s.slot tag.toNat).pc = pc →
    ∃ t : State, exec (.train o tag pc 0 0) s = .next t ∧
      (∀ i, i = (s.slot tag.toNat).gidx.toNat → t.gs.table.read i = bump2 (s.gs.table.read i) o) ∧
      (∀ i, i ≠ (s.slot tag.toNat).gidx.toNat → t.gs.table.read i = s.gs.table.read i) ∧
      t.gs.hist.toNat = (2 * s.gs.hist.toNat + o.toNat) % 2 ^ s.widthG ∧
      t.slot tag.toNat = Ctx.zero ∧ (∀ j, j ≠ tag.toNat → t.slot j = s.slot j) ∧
      t = { s with pcb := t.pcb, gs := t.gs, responses := 0 :: s.responses }

/-- R145 to R149, in R210's frame: TRAIN in TOURNAMENT. `np` is the NEW local pattern, and it is the local counter at `np` that
moves. -/
def Obligations.TrainInTournament : Prop :=
  ∀ (s : State) (o : Bool) (tag : Tag) (pc : Pc) (c : Ctx) (np : Nat), s.Inv → s.mode = .tournament →
    tag.toNat < s.params.nslot → s.slot tag.toNat = c → c.valid = true → c.pc = pc →
    np = (2 * (s.tn.lht.read c.pidx.toNat).toNat + o.toNat) % 2 ^ s.widthL →
    ∃ t : State, exec (.train o tag pc 0 0) s = .next t ∧
      (c.lpred = o → c.gpred ≠ o → t.tn.chooser.read c.gidx.toNat = bump2 (s.tn.chooser.read c.gidx.toNat) true) ∧
      (c.gpred = o → c.lpred ≠ o → t.tn.chooser.read c.gidx.toNat = bump2 (s.tn.chooser.read c.gidx.toNat) false) ∧
      (c.lpred = c.gpred → t.tn.chooser = s.tn.chooser) ∧
      (∀ i, i ≠ c.gidx.toNat → t.tn.chooser.read i = s.tn.chooser.read i) ∧
      (t.tn.lht.read c.pidx.toNat).toNat = np ∧
      (∀ i, i ≠ c.pidx.toNat → t.tn.lht.read i = s.tn.lht.read i) ∧
      t.tn.loc.read np = bump2 (s.tn.loc.read np) o ∧
      (∀ i, i ≠ np → t.tn.loc.read i = s.tn.loc.read i) ∧
      t.tn.glob.read c.gidx.toNat = bump2 (s.tn.glob.read c.gidx.toNat) o ∧
      (∀ i, i ≠ c.gidx.toNat → t.tn.glob.read i = s.tn.glob.read i) ∧
      t.tn.hist.toNat = (2 * s.tn.hist.toNat + o.toNat) % 2 ^ s.widthG ∧
      t.slot tag.toNat = Ctx.zero ∧ (∀ j, j ≠ tag.toNat → t.slot j = s.slot j) ∧
      t = { s with pcb := t.pcb, tn := t.tn, responses := 0 :: s.responses }

/-- R173 to R176, in R210's frame: TRAIN in BIMODE moves the chooser and the selected table by the recorded selection. -/
def Obligations.TrainInBimode : Prop :=
  ∀ (s : State) (o : Bool) (tag : Tag) (pc : Pc) (c : Ctx), s.Inv → s.mode = .bimode →
    tag.toNat < s.params.nslot → s.slot tag.toNat = c → c.valid = true → c.pc = pc →
    ∃ t : State, exec (.train o tag pc 0 0) s = .next t ∧
      (o = true → c.sel = false → c.selpred = false →
        t.bm.chooser.read c.cidx.toNat = bump3 (s.bm.chooser.read c.cidx.toNat) true) ∧
      (o = false → c.sel = true → c.selpred = true →
        t.bm.chooser.read c.cidx.toNat = bump3 (s.bm.chooser.read c.cidx.toNat) false) ∧
      (c.sel = o ∨ c.selpred = o → t.bm.chooser = s.bm.chooser) ∧
      (∀ i, i ≠ c.cidx.toNat → t.bm.chooser.read i = s.bm.chooser.read i) ∧
      (c.sel = true →
        t.bm.taken.read c.didx.toNat = bump2 (s.bm.taken.read c.didx.toNat) o ∧ t.bm.notTaken = s.bm.notTaken) ∧
      (c.sel = false →
        t.bm.notTaken.read c.didx.toNat = bump2 (s.bm.notTaken.read c.didx.toNat) o ∧ t.bm.taken = s.bm.taken) ∧
      (∀ i, i ≠ c.didx.toNat →
        t.bm.taken.read i = s.bm.taken.read i ∧ t.bm.notTaken.read i = s.bm.notTaken.read i) ∧
      t.bm.hist.toNat = (2 * s.bm.hist.toNat + o.toNat) % 2 ^ 11 ∧
      t.slot tag.toNat = Ctx.zero ∧ (∀ j, j ≠ tag.toNat → t.slot j = s.slot j) ∧
      t = { s with pcb := t.pcb, bm := t.bm, responses := 0 :: s.responses }

/-- R83, its expansion (log 11): RESOLVE in a configured block with a free slot trains the active unit with the context of its own
prediction, in the state before it, responds OK twice and leaves every slot as it was; where the PREDICT responds with a status
other than OK, the TRAIN is not issued, and there is that one response. -/
def Obligations.ResolveTrainsItsOwnPrediction : Prop :=
  ∀ (s : State) (pc : Pc) (o : Bool),
    (∀ k, s.Inv → s.mode ≠ .unconfigured → s.mode ≠ .error → s.freeSlot = some k →
      ∃ (t : State) (tag : Tag), resolve pc o s = .next t ∧ tag.toNat = k ∧ (∀ j, t.slot j = s.slot j) ∧
        t = { s.unitTrain { (s.unitPredict pc).2 with valid := true, pc := pc } o with
          pcb := t.pcb, responses := 0 :: responseWord .ok (s.unitPredict pc).1 tag :: s.responses }) ∧
    (s.mode = .unconfigured → resolve pc o s = .next { s with responses := 2 :: s.responses }) ∧
    (s.mode = .error → resolve pc o s = .next { s with responses := 3 :: s.responses }) ∧
    (s.mode ≠ .unconfigured → s.mode ≠ .error → (∀ k < s.params.nslot, (s.slot k).valid = true) →
      resolve pc o s = .next { s with responses := 4 :: s.responses })

/-! ## Errors and frames over all commands -/

/-- R242: a status other than OK leaves every state element as it was, but for CFG_ERROR from an INIT. -/
def Obligations.ErrorsChangeNothingButFailedInit : Prop :=
  ∀ (i : Instr) (s t : State) (r : Response), exec i s = .next t → t.responses = r :: s.responses → responseStatus r ≠ 0 →
    t = { s with responses := r :: s.responses } ∨
    (r = 3 ∧ rowOf i ∈ [rowInitGshare, rowInitTournament, rowInitInvalid] ∧ (∀ k, t.slot k = Ctx.zero) ∧
      t = { s with mode := .error, cfgG := 0, cfgL := 0, cfgP := 0, pcb := t.pcb, responses := r :: s.responses })

/-- R243: the status of the response to every command, as the first condition that holds in the order of R243. -/
def Obligations.StatusIsTheFirstCondition : Prop :=
  ∀ (i : Instr) (s : State), ∃ (t : State) (r : Response), exec i s = .next t ∧ t.responses = r :: s.responses ∧
    responseStatus r =
      (match i with
      | .nop resv => if resv ≠ 0 then 1 else 0
      | .initStatic _ _ _ resv => if resv ≠ 0 then 1 else 0
      | .initBimode _ _ _ resv => if resv ≠ 0 then 1 else 0
      | .initGshare g _ _ resv =>
        if resv ≠ 0 then 1 else if g.toNat = 0 ∨ s.params.wIdxMax < g.toNat then 3 else 0
      | .initTournament g l p resv =>
        if resv ≠ 0 then 1
        else if ∃ w ∈ [g, l, p], w.toNat = 0 ∨ s.params.wIdxMax < w.toNat then 3 else 0
      | .initInvalid _ _ _ _ resv => if resv ≠ 0 then 1 else 3
      | .predict _ resv =>
        if resv ≠ 0 then 1 else if s.mode = .unconfigured then 2 else if s.mode = .error then 3
        else if ∀ k < s.params.nslot, (s.slot k).valid = true then 4 else 0
      | .train _ tag pc lo hi =>
        if lo ≠ 0 ∨ hi ≠ 0 then 1 else if s.mode = .unconfigured then 2 else if s.mode = .error then 3
        else if s.params.nslot ≤ tag.toNat ∨ (s.slot tag.toNat).valid = false ∨ (s.slot tag.toNat).pc ≠ pc then 5 else 0)

/-- R23 and R24, who writes them: no command but INIT changes MODE and the configuration registers; none changes the parameters. -/
def Obligations.OnlyInitWritesTheConfiguration : Prop :=
  ∀ (i : Instr) (s t : State), exec i s = .next t →
    t.params = s.params ∧
    (rowOf i ∈ [rowNop, rowPredict, rowTrain] →
      t.mode = s.mode ∧ t.cfgG = s.cfgG ∧ t.cfgL = s.cfgL ∧ t.cfgP = s.cfgP)

/-- From R56 and R32: NOP and PREDICT change no table and no history; TRAIN changes those of the active unit alone; an INIT those of
the unit it selects alone. -/
def Obligations.EachUnitIsWrittenByItsOwnCommands : Prop :=
  ∀ (i : Instr) (s t : State), exec i s = .next t →
    (t.gs ≠ s.gs → rowOf i = rowInitGshare ∨ rowOf i = rowTrain ∧ s.mode = .gshare) ∧
    (t.tn ≠ s.tn → rowOf i = rowInitTournament ∨ rowOf i = rowTrain ∧ s.mode = .tournament) ∧
    (t.bm ≠ s.bm → rowOf i = rowInitBimode ∨ rowOf i = rowTrain ∧ s.mode = .bimode)

/-- From R56 and R210: PREDICT writes no slot but the one it takes, and TRAIN no slot but the one it frees; NOP writes none. -/
def Obligations.PredictAndTrainWriteOneSlot : Prop :=
  ∀ (s t : State) (j : Nat), s.tablesWf →
    (∀ resv, exec (.nop resv) s = .next t → t.pcb = s.pcb) ∧
    (∀ pc resv, exec (.predict pc resv) s = .next t → s.freeSlot ≠ some j → t.slot j = s.slot j) ∧
    (∀ o tag pc lo hi, exec (.train o tag pc lo hi) s = .next t → tag.toNat ≠ j → t.slot j = s.slot j)

/-! ## Reset -/

/-- R270, for every value of the parameters: what reset leaves. The unit tables are not stated: R34 leaves them unspecified, and
the model's values are its own choice (log 4). -/
def Obligations.ResetLeavesUnconfigured : Prop :=
  State.reset = State.resetWith Params.default ∧
  ∀ p : Params,
    (State.resetWith p).params = p ∧ (State.resetWith p).mode = .unconfigured ∧
    (State.resetWith p).cfgG = 0 ∧ (State.resetWith p).cfgL = 0 ∧ (State.resetWith p).cfgP = 0 ∧
    ∀ k, (State.resetWith p).slot k = Ctx.zero

/-- From R271: right after reset, whatever the unit tables hold, NOP responds OK, PREDICT and TRAIN respond UNCONFIGURED, and an
INIT with widths R213 allows selects its scheme. -/
def Obligations.FirstRequestAfterReset : Prop :=
  ∀ (p : Params) (gs : Gshare) (tn : Tournament) (bm : Bimode) (s : State),
    s = { State.resetWith p with gs := gs, tn := tn, bm := bm } →
    exec (.nop 0) s = .next { s with responses := [0] } ∧
    (∀ pc : Pc, exec (.predict pc 0) s = .next { s with responses := [2] }) ∧
    (∀ (o : Bool) (tag : Tag) (pc : Pc), exec (.train o tag pc 0 0) s = .next { s with responses := [2] }) ∧
    (∀ g l q : Width,
      (∃ t : State, exec (.initStatic g l q 0) s = .next t ∧ t.mode = .static ∧ t.responses = [0]) ∧
      (∃ t : State, exec (.initGshare g l q 0) s = .next t ∧
        (1 ≤ g.toNat → g.toNat ≤ p.wIdxMax → t.mode = .gshare ∧ t.responses = [0])) ∧
      (∃ t : State, exec (.initTournament g l q 0) s = .next t ∧
        ((∀ w ∈ [g, l, q], 1 ≤ w.toNat ∧ w.toNat ≤ p.wIdxMax) → t.mode = .tournament ∧ t.responses = [0])) ∧
      (∃ t : State, exec (.initBimode g l q 0) s = .next t ∧ t.mode = .bimode ∧ t.responses = [0]))

/-! ## Invariants -/

/-- The invariant (R35, log 5) holds after reset, for every legal value of the parameters and every stream of requests. -/
def Obligations.ResetMeetsTheInvariant : Prop :=
  ∀ (p : Params) (reqs : List Request), p.legal → ({ State.resetWith p with pending := reqs } : State).Inv

/-- Every step keeps the invariant of R24, R33 and R35, with the canonical form of the model's tables (log 5). -/
def Obligations.EveryStepKeepsTheInvariant : Prop :=
  ∀ s t : State, s.Inv → step s = .next t → t.Inv

/-- From R35 (b) to (d), as what every read gives in a state that meets the invariant. -/
def Obligations.InvariantBoundsEveryRead : Prop :=
  ∀ s : State, s.Inv →
    (s.mode = .gshare → s.gs.hist.toNat < 2 ^ s.widthG) ∧
    (s.mode = .tournament → s.tn.hist.toNat < 2 ^ s.widthG ∧ ∀ j, (s.tn.lht.read j).toNat < 2 ^ s.widthL) ∧
    (s.mode = .bimode → s.bm.hist.toNat < 2 ^ 11 ∧ s.widthG = 11 ∧ s.widthP = 11) ∧
    (∀ k, (s.slot k).valid = true → k < s.params.nslot ∧
      (s.mode = .gshare → (s.slot k).gidx.toNat < 2 ^ s.widthG) ∧
      (s.mode = .tournament → (s.slot k).gidx.toNat < 2 ^ s.widthG ∧ (s.slot k).pidx.toNat < 2 ^ s.widthP ∧
        (s.slot k).lidx.toNat < 2 ^ s.widthL) ∧
      (s.mode = .bimode → (s.slot k).didx.toNat < 2 ^ 11 ∧ (s.slot k).cidx.toNat < 2 ^ 11)) ∧
    (∀ k, (s.slot k).valid = false → s.slot k = Ctx.zero) ∧
    (s.mode = .unconfigured ∨ s.mode = .error → ∀ k, s.slot k = Ctx.zero)

/-- From R125 and R151, and for Bimode from R171, R172 and D19: with one slot, the recorded context stays what a PREDICT would
record now, whatever is requested. -/
def Obligations.SingleOutstandingContextStaysFresh : Prop :=
  ∀ s t : State, s.Inv → s.freshContext → step s = .next t → t.freshContext

/-- From R125 and R151, and for Bimode from R171, R172 and D19: where a valid slot is fresh, its context holds the indices and
sub-predictions computed again from its pc, and training it is training what is computed again. -/
def Obligations.RecordedContextEqualsRecomputation : Prop :=
  ∀ (s : State) (k : Nat) (c : Ctx), s.slotFresh k → s.slot k = c → c.valid = true →
    (∀ o, s.unitTrain c o = s.unitTrain (s.unitPredict c.pc).2 o) ∧
    (s.mode = .gshare → c.gidx.toNat = (c.pc ^^^ s.gs.hist).toNat % 2 ^ s.widthG) ∧
    (s.mode = .tournament →
      c.gidx.toNat = s.tn.hist.toNat % 2 ^ s.widthG ∧ c.pidx.toNat = c.pc.toNat % 2 ^ s.widthP ∧
      c.lidx.toNat = (s.tn.lht.read c.pidx.toNat).toNat % 2 ^ s.widthL ∧
      c.gpred = pred2 (s.tn.glob.read c.gidx.toNat) ∧ c.lpred = pred2 (s.tn.loc.read c.lidx.toNat)) ∧
    (s.mode = .bimode →
      c.didx.toNat = (c.pc ^^^ s.bm.hist).toNat % 2 ^ 11 ∧ c.cidx.toNat = c.pc.toNat % 2 ^ 11 ∧
      c.sel = pred3 (s.bm.chooser.read c.cidx.toNat) ∧
      c.selpred = (if c.sel then pred2 (s.bm.taken.read c.didx.toNat) else pred2 (s.bm.notTaken.read c.didx.toNat)))

/-- From R178, for one outstanding prediction (with more, the rule it is derived from, R173, does not give it: log 9): every step
keeps each Bimode chooser entry from `BC_INIT` to 4. -/
def Obligations.BimodeChooserStaysBetweenInitAndFour : Prop :=
  ∀ s t : State, s.Inv → s.freshContext → s.chooserBetween → step s = .next t → t.chooserBetween

/-- R272: what reset leaves unspecified, and what inactive units hold, no one can observe. Two instances that differ only
in it and are given the same requests give the same responses and still differ only in it, after any number of steps. -/
def Obligations.UnspecifiedContentsAreUnobservable : Prop :=
  ∀ (n : Nat) (s t : State), s.sameButInactive t →
    ∃ s' t' : State, Host.Core.run Sys2Proof.core n s = .next s' ∧ Host.Core.run Sys2Proof.core n t = .next t' ∧
      s'.sameButInactive t' ∧ s'.responses = t'.responses

/-! ## The schemes over many trains -/

/-- R126: the Gshare index is below the table's size, one train changes no entry but the recorded one, and that one exactly if
it is not saturated toward the outcome, and shifts the history; after at least G trains the history is the last G outcomes. -/
def Obligations.GshareLaws : Prop :=
  ∀ (u : Gshare) (n : Nat), u.table.wf → 1 ≤ n → n ≤ 32 →
    (∀ pc : Pc, (gsIndex u n pc).toNat < 2 ^ n) ∧
    (∀ (c : Ctx) (o : Bool),
      (∀ i, i ≠ c.gidx.toNat → (gsTrain u n c o).table.read i = u.table.read i) ∧
      ((gsTrain u n c o).table.read c.gidx.toNat = u.table.read c.gidx.toNat ↔
        u.table.read c.gidx.toNat = (if o then 3 else 0)) ∧
      (u.hist.toNat < 2 ^ n → (gsTrain u n c o).hist.toNat = (2 * u.hist.toNat + o.toNat) % 2 ^ n)) ∧
    (∀ cs : List (Ctx × Bool), n ≤ cs.length → ∀ i < 32,
      (cs.foldl (fun v co => gsTrain v n co.1 co.2) u).hist.getLsbD i =
        (decide (i < n) && (cs.map Prod.snd).reverse.getD i false))

/-- R152: where every TRAIN at one chooser index had the local sub-prediction right and the global one wrong, three of them
drive the chooser there to 3, and it stays; where it was the other way round, to 0. TRAINs at other indices may come between. -/
def Obligations.TournamentChooserConverges : Prop :=
  ∀ (u : Tournament) (g l gi : Nat) (cs : List (Ctx × Bool)), u.chooser.wf →
    3 ≤ (cs.filter (fun co => co.1.gidx.toNat == gi)).length →
    ((∀ co ∈ cs, co.1.gidx.toNat = gi → co.1.lpred = co.2 ∧ co.1.gpred ≠ co.2) →
      (cs.foldl (fun v co => tnTrain v g l co.1 co.2) u).chooser.read gi = 3) ∧
    ((∀ co ∈ cs, co.1.gidx.toNat = gi → co.1.gpred = co.2 ∧ co.1.lpred ≠ co.2) →
      (cs.foldl (fun v co => tnTrain v g l co.1 co.2) u).chooser.read gi = 0)

/-- R179: TRAINs that selected the taken table leave the not-taken table alone, and the other way round. -/
def Obligations.BimodeTablesAreIsolated : Prop :=
  ∀ (u : Bimode) (cs : List (Ctx × Bool)),
    ((∀ co ∈ cs, co.1.sel = true) → (cs.foldl (fun v co => bmTrain v co.1 co.2) u).notTaken = u.notTaken) ∧
    ((∀ co ∈ cs, co.1.sel = false) → (cs.foldl (fun v co => bmTrain v co.1 co.2) u).taken = u.taken)

/-! ## Recorded contexts, for every number of slots -/

/-- From R125 and R151, and for Bimode from R171, R172 and D19, for every `W_SEQ`: the slot a PREDICT takes is fresh, and every
slot stays fresh over each step but a TRAIN that responds OK. A slot that is not valid counts as fresh, so the slot may be the one
a PREDICT takes. -/
def Obligations.ContextsStayFreshUntilATrain : Prop :=
  ∀ (s t : State) (k : Nat), s.Inv → s.slotFresh k → step s = .next t →
    (∀ (w : Request) (rest : List Request), s.pending = w :: rest → rowOf (decode w) = rowTrain →
      t.responses ≠ 0 :: s.responses) →
    t.slotFresh k
end

