-- ==== Sys2Proof/Laws/Encoding.lean ====
section
/-! SUPPORT. Request words as numbers: a word is the sum of its fields at their places, and a field of a word is a quotient and
a remainder. With these, facts about encodings are linear arithmetic. -/

namespace Sys2Proof

/-- `x ++ y` is x above the m bits of y. -/
theorem toNat_append_eq {n m : Nat} (x : BitVec n) (y : BitVec m) : (x ++ y).toNat = x.toNat * 2 ^ m + y.toNat := by
  rw [BitVec.toNat_append, ← Nat.shiftLeft_add_eq_or_of_lt y.isLt, Nat.shiftLeft_eq]

/-- A field is what is left above it and below it. -/
theorem toNat_field {n : Nat} (w : BitVec n) (lo len : Nat) : (w.extractLsb' lo len).toNat = w.toNat / 2 ^ lo % 2 ^ len := by
  rw [BitVec.extractLsb'_toNat, Nat.shiftRight_eq_div_pow]

theorem toNat_getLsbD {n : Nat} (w : BitVec n) (i : Nat) : (w.getLsbD i).toNat = w.toNat / 2 ^ i % 2 := by
  have h : w.getLsbD i = w.toNat.testBit i := rfl
  rw [h, Nat.testBit_eq_decide_div_mod_eq]
  rcases Nat.mod_two_eq_zero_or_one (w.toNat / 2 ^ i) with h | h <;> simp [h]

/-- The word of an INIT of each scheme, as a number (R72). -/
theorem toNat_encodeInit (scheme : BitVec 3) (g l p : Width) (resv : BitVec 41) :
    (encodeInit scheme g l p resv).toNat =
      resv.toNat * 2 ^ 23 + p.toNat * 2 ^ 17 + l.toNat * 2 ^ 11 + g.toNat * 2 ^ 5 + scheme.toNat * 2 ^ 2 + 1 := by
  simp only [encodeInit, toNat_append_eq, BitVec.toNat_ofNat]
  omega

theorem toNat_encode_nop (resv : BitVec 62) : (encode (.nop resv)).toNat = resv.toNat * 2 ^ 2 := by
  simp only [encode, toNat_append_eq, BitVec.toNat_ofNat]
  omega

theorem toNat_encode_predict (pc : Pc) (resv : BitVec 30) :
    (encode (.predict pc resv)).toNat = pc.toNat * 2 ^ 32 + resv.toNat * 2 ^ 2 + 2 := by
  simp only [encode, toNat_append_eq, BitVec.toNat_ofNat]
  omega

theorem toNat_encode_train (o : Bool) (tag : Tag) (pc : Pc) (lo : BitVec 5) (hi : BitVec 16) :
    (encode (.train o tag pc lo hi)).toNat =
      pc.toNat * 2 ^ 32 + hi.toNat * 2 ^ 16 + tag.toNat * 2 ^ 8 + lo.toNat * 2 ^ 3 + o.toNat * 2 ^ 2 + 3 := by
  simp only [encode, toNat_append_eq, BitVec.toNat_ofNat, BitVec.toNat_ofBool]
  omega

/-- Under the mask of `cmd`, a word is its remainder modulo 4. -/
theorem toNat_and_three (w : Request) : (w &&& 0x3).toNat = w.toNat % 4 := by
  rw [BitVec.toNat_and]; exact Nat.and_two_pow_sub_one_eq_mod w.toNat 2

/-- Under the mask of `cmd` and scheme, a word is its remainder modulo 32. -/
theorem toNat_and_low5 (w : Request) : (w &&& 0x1F).toNat = w.toNat % 32 := by
  rw [BitVec.toNat_and]; exact Nat.and_two_pow_sub_one_eq_mod w.toNat 5

/-- Under INIT.INVALID's mask only the low five bits count. -/
theorem toNat_and_invalid (w : Request) : (w &&& 0x13).toNat = w.toNat % 32 &&& 0x13 := by
  have h : w.toNat % 32 = w.toNat &&& 31 := (Nat.and_two_pow_sub_one_eq_mod w.toNat 5).symm
  rw [BitVec.toNat_and, h, Nat.and_assoc]
  rfl

/-- A word under the mask of one field is 0 exactly if the field is. -/
theorem and_eq_zero_iff_field {w m : Request} {lo len : Nat}
    (hm : ∀ i < 64, m.getLsbD i = (decide (lo ≤ i) && decide (i < lo + len))) (h : lo + len ≤ 64) :
    w &&& m = 0 ↔ w.extractLsb' lo len = 0 := by
  constructor
  · intro hw
    apply BitVec.eq_of_getLsbD_eq
    intro i hi
    have hb := congrArg (fun x : Request => x.getLsbD (lo + i)) hw
    simp only [BitVec.getLsbD_and, hm (lo + i) (by omega)] at hb
    simpa [hi, show lo + i < lo + len by omega] using hb
  · intro hw
    apply BitVec.eq_of_getLsbD_eq
    intro i hi
    rw [BitVec.getLsbD_and, hm i hi]
    by_cases hin : lo ≤ i ∧ i < lo + len
    · have hb := congrArg (fun x : BitVec len => x.getLsbD (i - lo)) hw
      simp only [BitVec.getLsbD_extractLsb', show i - lo < len by omega, decide_true, Bool.true_and,
        show lo + (i - lo) = i by omega] at hb
      simp [hb]
    · have hf : (decide (lo ≤ i) && decide (i < lo + len)) = false := by
        rw [Bool.and_eq_false_iff]; simp only [decide_eq_false_iff_not]; omega
      simp [hf]

/-- A row is matched under `cmd`'s mask when the remainder modulo 4 is the pattern. -/
theorem matches_cmd {r : OpcodeRow} (hm : r.mask = 0x3) {w : Request} (h : w.toNat % 4 = r.pattern.toNat) :
    r.matchesWord w = true := by
  rw [OpcodeRow.matchesWord, hm, beq_iff_eq]
  exact BitVec.eq_of_toNat_eq (by rw [toNat_and_three, h])

theorem matches_scheme {r : OpcodeRow} (hm : r.mask = 0x1F) {w : Request} (h : w.toNat % 32 = r.pattern.toNat) :
    r.matchesWord w = true := by
  rw [OpcodeRow.matchesWord, hm, beq_iff_eq]
  exact BitVec.eq_of_toNat_eq (by rw [toNat_and_low5, h])

end Sys2Proof
end

