-- ==== Sys2Proof/Laws/State.lean ====
section
/-! SUPPORT. What each update of the state does to each field, so that no proof unfolds a record update. -/

namespace Sys2Proof.Machine

variable (s : State)

@[simp] theorem State.respondWith_params (st : Status) (b : Bool) (tag : Tag) : (s.respondWith st b tag).params = s.params := rfl
@[simp] theorem State.respondWith_mode (st : Status) (b : Bool) (tag : Tag) : (s.respondWith st b tag).mode = s.mode := rfl
@[simp] theorem State.respondWith_cfgG (st : Status) (b : Bool) (tag : Tag) : (s.respondWith st b tag).cfgG = s.cfgG := rfl
@[simp] theorem State.respondWith_cfgL (st : Status) (b : Bool) (tag : Tag) : (s.respondWith st b tag).cfgL = s.cfgL := rfl
@[simp] theorem State.respondWith_cfgP (st : Status) (b : Bool) (tag : Tag) : (s.respondWith st b tag).cfgP = s.cfgP := rfl
@[simp] theorem State.respondWith_pcb (st : Status) (b : Bool) (tag : Tag) : (s.respondWith st b tag).pcb = s.pcb := rfl
@[simp] theorem State.respondWith_gs (st : Status) (b : Bool) (tag : Tag) : (s.respondWith st b tag).gs = s.gs := rfl
@[simp] theorem State.respondWith_tn (st : Status) (b : Bool) (tag : Tag) : (s.respondWith st b tag).tn = s.tn := rfl
@[simp] theorem State.respondWith_bm (st : Status) (b : Bool) (tag : Tag) : (s.respondWith st b tag).bm = s.bm := rfl
@[simp] theorem State.respondWith_pending (st : Status) (b : Bool) (tag : Tag) : (s.respondWith st b tag).pending = s.pending := rfl
@[simp] theorem State.respondWith_responses (st : Status) (b : Bool) (tag : Tag) : (s.respondWith st b tag).responses = responseWord st b tag :: s.responses := rfl

@[simp] theorem State.respond_params (st : Status) : (s.respond st).params = s.params := rfl
@[simp] theorem State.respond_mode (st : Status) : (s.respond st).mode = s.mode := rfl
@[simp] theorem State.respond_cfgG (st : Status) : (s.respond st).cfgG = s.cfgG := rfl
@[simp] theorem State.respond_cfgL (st : Status) : (s.respond st).cfgL = s.cfgL := rfl
@[simp] theorem State.respond_cfgP (st : Status) : (s.respond st).cfgP = s.cfgP := rfl
@[simp] theorem State.respond_pcb (st : Status) : (s.respond st).pcb = s.pcb := rfl
@[simp] theorem State.respond_gs (st : Status) : (s.respond st).gs = s.gs := rfl
@[simp] theorem State.respond_tn (st : Status) : (s.respond st).tn = s.tn := rfl
@[simp] theorem State.respond_bm (st : Status) : (s.respond st).bm = s.bm := rfl
@[simp] theorem State.respond_pending (st : Status) : (s.respond st).pending = s.pending := rfl
@[simp] theorem State.respond_responses (st : Status) : (s.respond st).responses = responseWord st false 0 :: s.responses := rfl

@[simp] theorem State.configure_params (m : Mode) (g l p : Width) : (s.configure m g l p).params = s.params := rfl
@[simp] theorem State.configure_mode (m : Mode) (g l p : Width) : (s.configure m g l p).mode = m := rfl
@[simp] theorem State.configure_cfgG (m : Mode) (g l p : Width) : (s.configure m g l p).cfgG = g := rfl
@[simp] theorem State.configure_cfgL (m : Mode) (g l p : Width) : (s.configure m g l p).cfgL = l := rfl
@[simp] theorem State.configure_cfgP (m : Mode) (g l p : Width) : (s.configure m g l p).cfgP = p := rfl
@[simp] theorem State.configure_pcb (m : Mode) (g l p : Width) : (s.configure m g l p).pcb = s.pcb := rfl
@[simp] theorem State.configure_gs (m : Mode) (g l p : Width) : (s.configure m g l p).gs = s.gs := rfl
@[simp] theorem State.configure_tn (m : Mode) (g l p : Width) : (s.configure m g l p).tn = s.tn := rfl
@[simp] theorem State.configure_bm (m : Mode) (g l p : Width) : (s.configure m g l p).bm = s.bm := rfl
@[simp] theorem State.configure_pending (m : Mode) (g l p : Width) : (s.configure m g l p).pending = s.pending := rfl
@[simp] theorem State.configure_responses (m : Mode) (g l p : Width) : (s.configure m g l p).responses = s.responses := rfl

@[simp] theorem State.clearPcb_params : s.clearPcb.params = s.params := rfl
@[simp] theorem State.clearPcb_mode : s.clearPcb.mode = s.mode := rfl
@[simp] theorem State.clearPcb_cfgG : s.clearPcb.cfgG = s.cfgG := rfl
@[simp] theorem State.clearPcb_cfgL : s.clearPcb.cfgL = s.cfgL := rfl
@[simp] theorem State.clearPcb_cfgP : s.clearPcb.cfgP = s.cfgP := rfl
@[simp] theorem State.clearPcb_pcb : s.clearPcb.pcb = Table.filled Ctx.zero := rfl
@[simp] theorem State.clearPcb_gs : s.clearPcb.gs = s.gs := rfl
@[simp] theorem State.clearPcb_tn : s.clearPcb.tn = s.tn := rfl
@[simp] theorem State.clearPcb_bm : s.clearPcb.bm = s.bm := rfl
@[simp] theorem State.clearPcb_pending : s.clearPcb.pending = s.pending := rfl
@[simp] theorem State.clearPcb_responses : s.clearPcb.responses = s.responses := rfl

@[simp] theorem State.writeSlot_params (k : Nat) (c : Ctx) : (s.writeSlot k c).params = s.params := rfl
@[simp] theorem State.writeSlot_mode (k : Nat) (c : Ctx) : (s.writeSlot k c).mode = s.mode := rfl
@[simp] theorem State.writeSlot_cfgG (k : Nat) (c : Ctx) : (s.writeSlot k c).cfgG = s.cfgG := rfl
@[simp] theorem State.writeSlot_cfgL (k : Nat) (c : Ctx) : (s.writeSlot k c).cfgL = s.cfgL := rfl
@[simp] theorem State.writeSlot_cfgP (k : Nat) (c : Ctx) : (s.writeSlot k c).cfgP = s.cfgP := rfl
@[simp] theorem State.writeSlot_pcb (k : Nat) (c : Ctx) : (s.writeSlot k c).pcb = s.pcb.write k c := rfl
@[simp] theorem State.writeSlot_gs (k : Nat) (c : Ctx) : (s.writeSlot k c).gs = s.gs := rfl
@[simp] theorem State.writeSlot_tn (k : Nat) (c : Ctx) : (s.writeSlot k c).tn = s.tn := rfl
@[simp] theorem State.writeSlot_bm (k : Nat) (c : Ctx) : (s.writeSlot k c).bm = s.bm := rfl
@[simp] theorem State.writeSlot_pending (k : Nat) (c : Ctx) : (s.writeSlot k c).pending = s.pending := rfl
@[simp] theorem State.writeSlot_responses (k : Nat) (c : Ctx) : (s.writeSlot k c).responses = s.responses := rfl

@[simp] theorem State.initFail_params : s.initFail.params = s.params := rfl
@[simp] theorem State.initFail_mode : s.initFail.mode = .error := rfl
@[simp] theorem State.initFail_cfgG : s.initFail.cfgG = 0 := rfl
@[simp] theorem State.initFail_cfgL : s.initFail.cfgL = 0 := rfl
@[simp] theorem State.initFail_cfgP : s.initFail.cfgP = 0 := rfl
@[simp] theorem State.initFail_pcb : s.initFail.pcb = s.pcb := rfl
@[simp] theorem State.initFail_gs : s.initFail.gs = s.gs := rfl
@[simp] theorem State.initFail_tn : s.initFail.tn = s.tn := rfl
@[simp] theorem State.initFail_bm : s.initFail.bm = s.bm := rfl
@[simp] theorem State.initFail_pending : s.initFail.pending = s.pending := rfl
@[simp] theorem State.initFail_responses : s.initFail.responses = responseWord .cfgError false 0 :: s.responses := rfl

@[simp] theorem State.dequeue_params (rest : List Request) : (s.dequeue rest).params = s.params := rfl
@[simp] theorem State.dequeue_mode (rest : List Request) : (s.dequeue rest).mode = s.mode := rfl
@[simp] theorem State.dequeue_cfgG (rest : List Request) : (s.dequeue rest).cfgG = s.cfgG := rfl
@[simp] theorem State.dequeue_cfgL (rest : List Request) : (s.dequeue rest).cfgL = s.cfgL := rfl
@[simp] theorem State.dequeue_cfgP (rest : List Request) : (s.dequeue rest).cfgP = s.cfgP := rfl
@[simp] theorem State.dequeue_pcb (rest : List Request) : (s.dequeue rest).pcb = s.pcb := rfl
@[simp] theorem State.dequeue_gs (rest : List Request) : (s.dequeue rest).gs = s.gs := rfl
@[simp] theorem State.dequeue_tn (rest : List Request) : (s.dequeue rest).tn = s.tn := rfl
@[simp] theorem State.dequeue_bm (rest : List Request) : (s.dequeue rest).bm = s.bm := rfl
@[simp] theorem State.dequeue_pending (rest : List Request) : (s.dequeue rest).pending = rest := rfl
@[simp] theorem State.dequeue_responses (rest : List Request) : (s.dequeue rest).responses = s.responses := rfl

@[simp] theorem State.setGs_params (u : Gshare) : (s.setGs u).params = s.params := rfl
@[simp] theorem State.setGs_mode (u : Gshare) : (s.setGs u).mode = s.mode := rfl
@[simp] theorem State.setGs_cfgG (u : Gshare) : (s.setGs u).cfgG = s.cfgG := rfl
@[simp] theorem State.setGs_cfgL (u : Gshare) : (s.setGs u).cfgL = s.cfgL := rfl
@[simp] theorem State.setGs_cfgP (u : Gshare) : (s.setGs u).cfgP = s.cfgP := rfl
@[simp] theorem State.setGs_pcb (u : Gshare) : (s.setGs u).pcb = s.pcb := rfl
@[simp] theorem State.setGs_gs (u : Gshare) : (s.setGs u).gs = u := rfl
@[simp] theorem State.setGs_tn (u : Gshare) : (s.setGs u).tn = s.tn := rfl
@[simp] theorem State.setGs_bm (u : Gshare) : (s.setGs u).bm = s.bm := rfl
@[simp] theorem State.setGs_pending (u : Gshare) : (s.setGs u).pending = s.pending := rfl
@[simp] theorem State.setGs_responses (u : Gshare) : (s.setGs u).responses = s.responses := rfl

@[simp] theorem State.setTn_params (u : Tournament) : (s.setTn u).params = s.params := rfl
@[simp] theorem State.setTn_mode (u : Tournament) : (s.setTn u).mode = s.mode := rfl
@[simp] theorem State.setTn_cfgG (u : Tournament) : (s.setTn u).cfgG = s.cfgG := rfl
@[simp] theorem State.setTn_cfgL (u : Tournament) : (s.setTn u).cfgL = s.cfgL := rfl
@[simp] theorem State.setTn_cfgP (u : Tournament) : (s.setTn u).cfgP = s.cfgP := rfl
@[simp] theorem State.setTn_pcb (u : Tournament) : (s.setTn u).pcb = s.pcb := rfl
@[simp] theorem State.setTn_gs (u : Tournament) : (s.setTn u).gs = s.gs := rfl
@[simp] theorem State.setTn_tn (u : Tournament) : (s.setTn u).tn = u := rfl
@[simp] theorem State.setTn_bm (u : Tournament) : (s.setTn u).bm = s.bm := rfl
@[simp] theorem State.setTn_pending (u : Tournament) : (s.setTn u).pending = s.pending := rfl
@[simp] theorem State.setTn_responses (u : Tournament) : (s.setTn u).responses = s.responses := rfl

@[simp] theorem State.setBm_params (u : Bimode) : (s.setBm u).params = s.params := rfl
@[simp] theorem State.setBm_mode (u : Bimode) : (s.setBm u).mode = s.mode := rfl
@[simp] theorem State.setBm_cfgG (u : Bimode) : (s.setBm u).cfgG = s.cfgG := rfl
@[simp] theorem State.setBm_cfgL (u : Bimode) : (s.setBm u).cfgL = s.cfgL := rfl
@[simp] theorem State.setBm_cfgP (u : Bimode) : (s.setBm u).cfgP = s.cfgP := rfl
@[simp] theorem State.setBm_pcb (u : Bimode) : (s.setBm u).pcb = s.pcb := rfl
@[simp] theorem State.setBm_gs (u : Bimode) : (s.setBm u).gs = s.gs := rfl
@[simp] theorem State.setBm_tn (u : Bimode) : (s.setBm u).tn = s.tn := rfl
@[simp] theorem State.setBm_bm (u : Bimode) : (s.setBm u).bm = u := rfl
@[simp] theorem State.setBm_pending (u : Bimode) : (s.setBm u).pending = s.pending := rfl
@[simp] theorem State.setBm_responses (u : Bimode) : (s.setBm u).responses = s.responses := rfl

/-- The train operations write the active unit and nothing else. -/
theorem State.unitTrain_frame (c : Ctx) (o : Bool) :
    s.unitTrain c o = { s with gs := (s.unitTrain c o).gs, tn := (s.unitTrain c o).tn, bm := (s.unitTrain c o).bm } := by
  obtain ⟨p, m, _, _, _, _, _, _, _, _, _⟩ := s
  cases m <;> rfl

@[simp] theorem State.unitTrain_params (c : Ctx) (o : Bool) : (s.unitTrain c o).params = s.params := by rw [State.unitTrain_frame]
@[simp] theorem State.unitTrain_mode (c : Ctx) (o : Bool) : (s.unitTrain c o).mode = s.mode := by rw [State.unitTrain_frame]
@[simp] theorem State.unitTrain_cfgG (c : Ctx) (o : Bool) : (s.unitTrain c o).cfgG = s.cfgG := by rw [State.unitTrain_frame]
@[simp] theorem State.unitTrain_cfgL (c : Ctx) (o : Bool) : (s.unitTrain c o).cfgL = s.cfgL := by rw [State.unitTrain_frame]
@[simp] theorem State.unitTrain_cfgP (c : Ctx) (o : Bool) : (s.unitTrain c o).cfgP = s.cfgP := by rw [State.unitTrain_frame]
@[simp] theorem State.unitTrain_pcb (c : Ctx) (o : Bool) : (s.unitTrain c o).pcb = s.pcb := by rw [State.unitTrain_frame]
@[simp] theorem State.unitTrain_pending (c : Ctx) (o : Bool) : (s.unitTrain c o).pending = s.pending := by rw [State.unitTrain_frame]
@[simp] theorem State.unitTrain_responses (c : Ctx) (o : Bool) : (s.unitTrain c o).responses = s.responses := by rw [State.unitTrain_frame]

end Sys2Proof.Machine
end

