-- ==== Sys2Proof/Laws/Tables.lean ====
section
/-! SUPPORT. The laws of tables: what a read gives after a write, and that every operation keeps the canonical form. -/

namespace Sys2Proof.Machine

variable {α : Type}

@[simp] theorem Table.read_filled (v : α) (i : Nat) : (Table.filled v).read i = v := rfl

@[simp] theorem Table.read_mk_nil (v : α) (i : Nat) : (Table.mk v []).read i = v := rfl

@[simp] theorem Table.filled_wf (v : α) : (Table.filled v).wf := ⟨List.Pairwise.nil, by simp [Table.filled]⟩

@[simp] theorem Table.filled_within (v : α) (n : Nat) : (Table.filled v).within n := by simp [Table.filled]

@[simp] theorem Table.filled_fill (v : α) : (Table.filled v).fill = v := rfl

@[simp] theorem Table.filled_cells (v : α) : (Table.filled v).cells = [] := rfl

@[simp] theorem Table.write_fill [DecidableEq α] (t : Table α) (i : Nat) (v : α) : (t.write i v).fill = t.fill := rfl

/-- An index below every listed one reads as the fill. -/
theorem lookupCell_of_lt {fill : α} {cells : List (Nat × α)} {i : Nat} (h : ∀ c ∈ cells, i < c.1) :
    lookupCell fill cells i = fill := by
  induction cells with
  | nil => rfl
  | cons c rest ih =>
    have hc := h c List.mem_cons_self
    simp only [lookupCell]
    rw [if_neg (by omega), ih fun d hd => h d (List.mem_cons_of_mem _ hd)]

/-- A cell after a store is the stored one or was there before. -/
theorem mem_storeCell [DecidableEq α] {fill v : α} {cells : List (Nat × α)} {i : Nat} {c : Nat × α}
    (h : c ∈ storeCell fill cells i v) : c = (i, v) ∨ c ∈ cells := by
  induction cells with
  | nil => simp only [storeCell] at h; split at h <;> simp_all
  | cons d rest ih =>
    obtain ⟨k, u⟩ := d
    simp only [storeCell] at h
    split_ifs at h <;> simp only [List.mem_cons] at h ⊢ <;> tauto

/-- The sharper form: a cell after a store is the stored one, and then it does not hold the fill, or was there before. -/
theorem mem_storeCell_ne_fill [DecidableEq α] {fill v : α} {cells : List (Nat × α)} {i : Nat} {c : Nat × α}
    (h : c ∈ storeCell fill cells i v) : (c = (i, v) ∧ v ≠ fill) ∨ c ∈ cells := by
  induction cells with
  | nil => simp only [storeCell] at h; split at h <;> simp_all
  | cons d rest ih =>
    obtain ⟨k, u⟩ := d
    simp only [storeCell] at h
    split_ifs at h <;> simp only [List.mem_cons] at h ⊢ <;> tauto

theorem lookupCell_storeCell_ne [DecidableEq α] (fill v : α) (cells : List (Nat × α)) {i j : Nat} (h : j ≠ i) :
    lookupCell fill (storeCell fill cells i v) j = lookupCell fill cells j := by
  induction cells with
  | nil => simp only [storeCell]; split <;> simp [lookupCell, h.symm]
  | cons d rest ih =>
    obtain ⟨k, u⟩ := d
    simp only [storeCell]
    split_ifs with h1 h2 h3 h4
    · simp only [lookupCell, ih]
    · subst h2; simp [lookupCell, h.symm]
    · subst h2; simp [lookupCell, h.symm]
    · rfl
    · simp [lookupCell, h.symm]

theorem lookupCell_storeCell_same [DecidableEq α] (fill v : α) (cells : List (Nat × α)) (i : Nat)
    (hs : cells.Pairwise (fun a b => a.1 < b.1)) : lookupCell fill (storeCell fill cells i v) i = v := by
  induction cells with
  | nil => simp only [storeCell]; split <;> simp_all [lookupCell]
  | cons d rest ih =>
    obtain ⟨k, u⟩ := d
    rw [List.pairwise_cons] at hs
    simp only [storeCell]
    split_ifs with h1 h2 h3 h4
    · rw [lookupCell, if_neg (by omega), ih hs.2]
    · subst h2; rw [lookupCell_of_lt fun c hc => hs.1 c hc, h3]
    · simp [lookupCell]
    · rw [h4, lookupCell_of_lt]
      intro c hc
      rcases List.mem_cons.1 hc with rfl | hc
      · simp only; omega
      · have := hs.1 c hc; simp only at this; omega
    · simp [lookupCell]

theorem storeCell_pairwise [DecidableEq α] (fill v : α) (cells : List (Nat × α)) (i : Nat)
    (hs : cells.Pairwise (fun a b => a.1 < b.1)) : (storeCell fill cells i v).Pairwise (fun a b => a.1 < b.1) := by
  induction cells with
  | nil => simp only [storeCell]; split <;> simp
  | cons d rest ih =>
    obtain ⟨k, u⟩ := d
    have hs' := hs
    rw [List.pairwise_cons] at hs
    simp only [storeCell]
    split_ifs with h1 h2 h3 h4
    · refine List.pairwise_cons.2 ⟨fun c hc => ?_, ih hs.2⟩
      rcases mem_storeCell hc with rfl | hc
      · exact h1
      · exact hs.1 c hc
    · exact hs.2
    · subst h2; exact List.pairwise_cons.2 ⟨hs.1, hs.2⟩
    · exact hs'
    · refine List.pairwise_cons.2 ⟨fun c hc => ?_, hs'⟩
      rcases List.mem_cons.1 hc with rfl | hc
      · simp only; omega
      · have := hs.1 c hc; simp only at this ⊢; omega

/-- A write leaves every other entry alone (R52). -/
theorem Table.read_write_ne [DecidableEq α] (t : Table α) (v : α) {i j : Nat} (h : j ≠ i) :
    (t.write i v).read j = t.read j := lookupCell_storeCell_ne t.fill v t.cells h

/-- A read after a write gives the value written (R51, R52). -/
theorem Table.read_write_same [DecidableEq α] {t : Table α} (ht : t.wf) (i : Nat) (v : α) :
    (t.write i v).read i = v := lookupCell_storeCell_same t.fill v t.cells i ht.1

/-- A write keeps the canonical form. -/
theorem Table.write_wf [DecidableEq α] {t : Table α} (ht : t.wf) (i : Nat) (v : α) : (t.write i v).wf := by
  refine ⟨storeCell_pairwise _ _ _ _ ht.1, fun c hc => ?_⟩
  rcases mem_storeCell_ne_fill hc with ⟨rfl, hv⟩ | hc
  · exact hv
  · exact ht.2 c hc

/-- What holds of the stored cell and of every cell before holds of every cell after. -/
theorem Table.forall_write [DecidableEq α] {t : Table α} {i : Nat} {v : α} {P : Nat × α → Prop}
    (h : ∀ c ∈ t.cells, P c) (hv : P (i, v)) : ∀ c ∈ (t.write i v).cells, P c := by
  intro c hc
  rcases mem_storeCell hc with rfl | hc
  · exact hv
  · exact h c hc

/-- What holds of every cell before holds of every cell after the fill is written: the write lists nothing new. -/
theorem Table.forall_write_fill [DecidableEq α] {t : Table α} {i : Nat} {v : α} {P : Nat × α → Prop}
    (h : ∀ c ∈ t.cells, P c) (hv : v = t.fill) : ∀ c ∈ (t.write i v).cells, P c := by
  intro c hc
  rcases mem_storeCell_ne_fill hc with ⟨_, hne⟩ | hc
  · exact absurd hv hne
  · exact h c hc

/-- A read gives the fill or what a listed cell holds. -/
theorem Table.read_eq_fill_or_mem (t : Table α) (i : Nat) : t.read i = t.fill ∨ (i, t.read i) ∈ t.cells := by
  obtain ⟨fill, cells⟩ := t
  show lookupCell fill cells i = fill ∨ (i, lookupCell fill cells i) ∈ cells
  induction cells with
  | nil => exact .inl rfl
  | cons d rest ih =>
    obtain ⟨k, u⟩ := d
    simp only [lookupCell]
    split_ifs with h
    · subst h; exact .inr List.mem_cons_self
    · exact ih.imp id (List.mem_cons_of_mem _)

theorem lookupCell_of_mem {fill : α} {cells : List (Nat × α)} (hs : cells.Pairwise (fun a b => a.1 < b.1))
    {c : Nat × α} (hc : c ∈ cells) : lookupCell fill cells c.1 = c.2 := by
  induction cells with
  | nil => simp at hc
  | cons d rest ih =>
    rw [List.pairwise_cons] at hs
    simp only [lookupCell]
    rcases List.mem_cons.1 hc with rfl | hc
    · simp
    · have := hs.1 c hc
      rw [if_neg (by omega), ih hs.2 hc]

/-- Tables with the same fill that read the same everywhere are the same data. -/
theorem Table.eq_of_read {t u : Table α} (ht : t.wf) (hu : u.wf) (hf : t.fill = u.fill)
    (h : ∀ i, t.read i = u.read i) : t = u := by
  obtain ⟨f, cs⟩ := t
  obtain ⟨f', ds⟩ := u
  obtain rfl : f = f' := hf
  congr 1
  replace h : ∀ i, lookupCell f cs i = lookupCell f ds i := h
  have sub : ∀ {as bs : List (Nat × α)}, as.Pairwise (fun a b => a.1 < b.1) → (∀ c ∈ as, c.2 ≠ f) →
      (∀ i, lookupCell f as i = lookupCell f bs i) → ∀ c ∈ as, c ∈ bs := by
    intro as bs hs hne hr c hc
    have h1 : lookupCell f bs c.1 = c.2 := by rw [← hr, lookupCell_of_mem hs hc]
    rcases Table.read_eq_fill_or_mem ⟨f, bs⟩ c.1 with h2 | h2
    · exact absurd (h1.symm.trans h2) (hne c hc)
    · have h3 : (c.1, lookupCell f bs c.1) ∈ bs := h2
      rwa [h1] at h3
  have nd : ∀ {as : List (Nat × α)}, as.Pairwise (fun a b => a.1 < b.1) → as.Nodup := fun hs =>
    hs.imp fun {a b} hab heq => by subst heq; omega
  have hp : cs.Perm ds := (List.perm_ext_iff_of_nodup (nd ht.1) (nd hu.1)).2 fun c =>
    ⟨sub ht.1 ht.2 h c, sub hu.1 hu.2 (fun i => (h i).symm) c⟩
  exact hp.eq_of_pairwise (fun a b _ _ h1 h2 => by omega) ht.1 hu.1

end Sys2Proof.Machine
end

