-- ==== Sys2Proof/Laws/Words.lean ====
section
/-! SUPPORT. The laws of masks, history shifts, counters, slots and response words. -/

namespace Sys2Proof.Machine

/-- Masking to n bits is the remainder modulo `2^n`, at every n. -/
theorem toNat_and_mask (x : BitVec 32) (n : Nat) : (x &&& mask n).toNat = x.toNat % 2 ^ n := by
  rw [mask, BitVec.toNat_and, BitVec.toNat_ofNat]
  have hx := x.isLt
  rcases Nat.lt_or_ge n 32 with h | h
  · have : 2 ^ n ≤ 2 ^ 32 := Nat.pow_le_pow_right (by decide) h.le
    have h1 : 1 ≤ 2 ^ n := Nat.one_le_two_pow
    rw [Nat.mod_eq_of_lt (a := 2 ^ n - 1) (by omega), Nat.and_two_pow_sub_one_eq_mod]
  · have h2 : 2 ^ 32 ∣ 2 ^ n := Nat.pow_dvd_pow 2 h
    obtain ⟨k, hk⟩ := h2
    have hk1 : 1 ≤ k := by
      rcases Nat.eq_zero_or_pos k with rfl | h
      · have : 0 < 2 ^ n := Nat.two_pow_pos n
        omega
      · exact h
    have h3 : (2 ^ n - 1) % 2 ^ 32 = 2 ^ 32 - 1 := by rw [hk]; omega
    have h4 : x.toNat < 2 ^ n := by rw [hk]; calc x.toNat < 2 ^ 32 := hx
      _ ≤ 2 ^ 32 * k := Nat.le_mul_of_pos_right _ hk1
    rw [h3, Nat.and_two_pow_sub_one_eq_mod, Nat.mod_eq_of_lt hx, Nat.mod_eq_of_lt h4]

/-- Bit i of a masked value. -/
theorem getLsbD_and_mask (x : BitVec 32) (n i : Nat) :
    (x &&& mask n).getLsbD i = (decide (i < n) && x.getLsbD i) := by
  have h : (x &&& mask n).getLsbD i = (x &&& mask n).toNat.testBit i := rfl
  rw [h, toNat_and_mask, Nat.testBit_mod_two_pow]
  rfl

theorem toNat_and_mask_lt (x : BitVec 32) (n : Nat) : (x &&& mask n).toNat < 2 ^ n := by
  rw [toNat_and_mask]; exact Nat.mod_lt _ (Nat.two_pow_pos n)

theorem toNat_hshift (h : History) (o : Bool) {n : Nat} (hn : n ≤ 32) :
    (hshift h o n).toNat = (2 * h.toNat + o.toNat) % 2 ^ n := by
  have e : (h <<< 1 ||| (BitVec.ofBool o).setWidth 32).toNat = (2 * h.toNat + o.toNat) % 2 ^ 32 := by
    have ho : ((BitVec.ofBool o).setWidth 32).toNat = o.toNat := by cases o <;> rfl
    have h2 : (h <<< 1).toNat = 2 ^ 1 * (h.toNat % 2 ^ 31) := by
      rw [BitVec.toNat_shiftLeft, Nat.shiftLeft_eq]; omega
    have hb : o.toNat < 2 ^ 1 := by cases o <;> decide
    rw [BitVec.toNat_or, ho, h2, ← Nat.two_pow_add_eq_or_of_lt hb]
    omega
  rw [hshift, toNat_and_mask, e, Nat.mod_mod_of_dvd]
  exact Nat.pow_dvd_pow 2 hn

theorem hshift_lt (h : History) (o : Bool) (n : Nat) : (hshift h o n).toNat < 2 ^ n := toNat_and_mask_lt _ n

/-- Bit 0 of a shifted history is the outcome, and bit i+1 is the old bit i, within the width. -/
theorem getLsbD_hshift_zero (h : History) (o : Bool) (n : Nat) : (hshift h o n).getLsbD 0 = (decide (0 < n) && o) := by
  rw [hshift, getLsbD_and_mask]
  cases o <;> simp

theorem getLsbD_hshift_succ (h : History) (o : Bool) (n i : Nat) (hi : i + 1 < 32) :
    (hshift h o n).getLsbD (i + 1) = (decide (i + 1 < n) && h.getLsbD i) := by
  rw [hshift, getLsbD_and_mask]
  have h1 : ((BitVec.ofBool o).setWidth 32).getLsbD (i + 1) = false := by cases o <;> simp
  rw [BitVec.getLsbD_or, h1, Bool.or_false, BitVec.getLsbD_shiftLeft]
  simp [hi]

theorem toNat_bump {n : Nat} (v : BitVec n) (d : Bool) :
    (bump v d).toNat = if d then min (v.toNat + 1) (2 ^ n - 1) else v.toNat - 1 := by
  have hv := v.isLt
  have : 0 < 2 ^ n := Nat.two_pow_pos n
  cases d
  · simp only [bump, Bool.false_eq_true, if_false, BitVec.toNat_ofNat]
    exact Nat.mod_eq_of_lt (by omega)
  · simp only [bump, if_true, BitVec.toNat_ofNat]
    exact Nat.mod_eq_of_lt (by omega)

/-- A free slot is the least slot that is not valid (R209). -/
theorem State.freeSlot_eq_some {s : State} {k : Nat} : s.freeSlot = some k ↔
    k < s.params.nslot ∧ (s.slot k).valid = false ∧ ∀ j < k, (s.slot j).valid = true := by
  simp only [State.freeSlot, List.find?_range_eq_some, List.mem_range, Bool.not_eq_true', Bool.not_eq_false']
  tauto

theorem State.freeSlot_eq_none {s : State} : s.freeSlot = none ↔ ∀ j < s.params.nslot, (s.slot j).valid = true := by
  simp [State.freeSlot]

theorem Params.nslot_le {p : Params} (h : p.legal) : p.nslot ≤ 256 := by
  have : (2 : Nat) ^ p.wSeq ≤ 2 ^ 8 := Nat.pow_le_pow_right (by decide) h.2.1
  exact this

theorem State.slot_eq (s : State) (k : Nat) : s.slot k = s.pcb.read k := rfl

@[simp] theorem State.slot_clearPcb (s : State) (k : Nat) : s.clearPcb.slot k = Ctx.zero := rfl

theorem State.slot_writeSlot_ne (s : State) (c : Ctx) {j k : Nat} (h : j ≠ k) : (s.writeSlot k c).slot j = s.slot j :=
  Table.read_write_ne _ _ h

theorem State.slot_writeSlot_same {s : State} (h : s.pcb.wf) (c : Ctx) (k : Nat) : (s.writeSlot k c).slot k = c :=
  Table.read_write_same h _ _

end Sys2Proof.Machine
end

