-- ==== Sys2Proof/Laws/Exec.lean ====
section
/-! SUPPORT. What each command can do, said once: one equation for each case of each command, and `exec_elim`, which says that a
command always answers a next state and that it is one of the listed ones. -/

namespace Sys2Proof.Machine

theorem execNop_bad {resv : BitVec 62} (h : resv ≠ 0) (s : State) : exec (.nop resv) s = .next (s.respond .badRequest) :=
  if_pos h

theorem execNop_ok (s : State) : exec (.nop 0) s = .next (s.respond .ok) := rfl

theorem execInitStatic_bad (g l p : Width) {resv : BitVec 41} (h : resv ≠ 0) (s : State) :
    exec (.initStatic g l p resv) s = .next (s.respond .badRequest) := if_pos h

theorem execInitStatic_ok (g l p : Width) (s : State) :
    exec (.initStatic g l p 0) s = .next ((s.clearPcb.configure .static 0 0 0).respond .ok) := rfl

theorem execInitGshare_bad (g l p : Width) {resv : BitVec 41} (h : resv ≠ 0) (s : State) :
    exec (.initGshare g l p resv) s = .next (s.respond .badRequest) := if_pos h

theorem execInitGshare_ok {s : State} {g : Width} (hg : validW s.params g = true) (l p : Width) :
    exec (.initGshare g l p 0) s = .next (((s.clearPcb.configure .gshare g 0 0).setGs gsInit).respond .ok) := by
  simp [exec, execInitGshare, hg]

theorem execInitGshare_fail {s : State} {g : Width} (hg : validW s.params g = false) (l p : Width) :
    exec (.initGshare g l p 0) s = .next s.clearPcb.initFail := by
  simp [exec, execInitGshare, hg]

theorem execInitTournament_bad (g l p : Width) {resv : BitVec 41} (h : resv ≠ 0) (s : State) :
    exec (.initTournament g l p resv) s = .next (s.respond .badRequest) := if_pos h

theorem execInitTournament_ok {s : State} {g l p : Width} (hg : validW s.params g = true)
    (hl : validW s.params l = true) (hp : validW s.params p = true) :
    exec (.initTournament g l p 0) s =
      .next (((s.clearPcb.configure .tournament g l p).setTn (tnInit s.params)).respond .ok) := by
  simp [exec, execInitTournament, hg, hl, hp]

theorem execInitTournament_fail {s : State} {g l p : Width}
    (h : (validW s.params g && validW s.params l && validW s.params p) = false) :
    exec (.initTournament g l p 0) s = .next s.clearPcb.initFail := by
  simp only [exec, execInitTournament, h]; rfl

theorem execInitBimode_bad (g l p : Width) {resv : BitVec 41} (h : resv ≠ 0) (s : State) :
    exec (.initBimode g l p resv) s = .next (s.respond .badRequest) := if_pos h

theorem execInitBimode_ok (g l p : Width) (s : State) :
    exec (.initBimode g l p 0) s =
      .next (((s.clearPcb.configure .bimode 11 0 11).setBm (bmInit s.params)).respond .ok) := rfl

theorem execInitInvalid_bad (scheme : BitVec 3) (g l p : Width) {resv : BitVec 41} (h : resv ≠ 0) (s : State) :
    exec (.initInvalid scheme g l p resv) s = .next (s.respond .badRequest) := if_pos h

theorem execInitInvalid_fail (scheme : BitVec 3) (g l p : Width) (s : State) :
    exec (.initInvalid scheme g l p 0) s = .next s.clearPcb.initFail := rfl

/-- The state after a prediction that is recorded in slot k. -/
abbrev State.afterPredict (s : State) (pc : Pc) (k : Nat) : State :=
  (s.writeSlot k { (s.unitPredict pc).2 with valid := true, pc := pc }).respondWith .ok (s.unitPredict pc).1 (BitVec.ofNat 8 k)

/-- The state after the training of the prediction in the slot the tag names. -/
abbrev State.afterTrain (s : State) (o : Bool) (tag : Tag) : State :=
  ((s.unitTrain (s.slot tag.toNat) o).writeSlot tag.toNat Ctx.zero).respond .ok

theorem execPredict_bad (pc : Pc) {resv : BitVec 30} (h : resv ≠ 0) (s : State) :
    exec (.predict pc resv) s = .next (s.respond .badRequest) := if_pos h

theorem execPredict_refused {s : State} {st : Status} (h : s.mode.refusal = some st) (pc : Pc) :
    exec (.predict pc 0) s = .next (s.respond st) := by
  simp [exec, execPredict, h]

theorem execPredict_busy {s : State} (h : s.mode.refusal = none) (hk : s.freeSlot = none) (pc : Pc) :
    exec (.predict pc 0) s = .next (s.respond .busy) := by
  simp [exec, execPredict, h, hk]

theorem execPredict_ok {s : State} {k : Nat} (h : s.mode.refusal = none) (hk : s.freeSlot = some k) (pc : Pc) :
    exec (.predict pc 0) s = .next (s.afterPredict pc k) := by
  simp [exec, execPredict, h, hk]

theorem execTrain_bad (o : Bool) (tag : Tag) (pc : Pc) {lo : BitVec 5} {hi : BitVec 16} (h : lo ≠ 0 ∨ hi ≠ 0) (s : State) :
    exec (.train o tag pc lo hi) s = .next (s.respond .badRequest) := if_pos h

theorem execTrain_refused {s : State} {st : Status} (h : s.mode.refusal = some st) (o : Bool) (tag : Tag) (pc : Pc) :
    exec (.train o tag pc 0 0) s = .next (s.respond st) := by
  simp [exec, execTrain, h]

theorem execTrain_protocol {s : State} {tag : Tag} {pc : Pc} (h : s.mode.refusal = none)
    (hm : s.slotMatches tag pc = false) (o : Bool) :
    exec (.train o tag pc 0 0) s = .next (s.respond .protocolError) := by
  simp [exec, execTrain, h, hm]

theorem execTrain_ok {s : State} {tag : Tag} {pc : Pc} (h : s.mode.refusal = none)
    (hm : s.slotMatches tag pc = true) (o : Bool) :
    exec (.train o tag pc 0 0) s = .next (s.afterTrain o tag) := by
  simp [exec, execTrain, h, hm]

/-- Every command answers a next state, and it is one of these: turned away with a status and nothing else; a NOP; a
configuration, or a failed one; a recorded prediction; a training. -/
theorem exec_elim (s : State) {motive : Instr → State → Prop}
    (away : ∀ i st, st ≠ Status.ok → motive i (s.respond st))
    (nop : motive (.nop 0) (s.respond .ok))
    (static : ∀ g l p, motive (.initStatic g l p 0) ((s.clearPcb.configure .static 0 0 0).respond .ok))
    (gshare : ∀ g l p, validW s.params g = true →
      motive (.initGshare g l p 0) (((s.clearPcb.configure .gshare g 0 0).setGs gsInit).respond .ok))
    (tournament : ∀ g l p, validW s.params g = true → validW s.params l = true → validW s.params p = true →
      motive (.initTournament g l p 0) (((s.clearPcb.configure .tournament g l p).setTn (tnInit s.params)).respond .ok))
    (bimode : ∀ g l p,
      motive (.initBimode g l p 0) (((s.clearPcb.configure .bimode 11 0 11).setBm (bmInit s.params)).respond .ok))
    (fail : ∀ i, rowOf i ∈ [rowInitGshare, rowInitTournament, rowInitInvalid] → motive i s.clearPcb.initFail)
    (predict : ∀ pc k, s.mode.refusal = none → s.freeSlot = some k → motive (.predict pc 0) (s.afterPredict pc k))
    (train : ∀ o tag pc, s.mode.refusal = none → s.slotMatches tag pc = true →
      motive (.train o tag pc 0 0) (s.afterTrain o tag))
    (i : Instr) : ∃ t, exec i s = .next t ∧ motive i t := by
  have hrefused : ∀ {st}, s.mode.refusal = some st → st ≠ Status.ok := by
    intro st h; rcases hm : s.mode <;> rw [hm] at h <;> simp [Mode.refusal] at h <;> subst h <;> decide
  cases i with
  | nop resv =>
    by_cases h : resv = 0
    · subst h; exact ⟨_, execNop_ok s, nop⟩
    · exact ⟨_, execNop_bad h s, away _ _ (by decide)⟩
  | initStatic g l p resv =>
    by_cases h : resv = 0
    · subst h; exact ⟨_, execInitStatic_ok g l p s, static g l p⟩
    · exact ⟨_, execInitStatic_bad g l p h s, away _ _ (by decide)⟩
  | initGshare g l p resv =>
    by_cases h : resv = 0
    · subst h
      by_cases hg : validW s.params g = true
      · exact ⟨_, execInitGshare_ok hg l p, gshare g l p hg⟩
      · exact ⟨_, execInitGshare_fail (by simpa using hg) l p, fail _ (by simp [rowOf])⟩
    · exact ⟨_, execInitGshare_bad g l p h s, away _ _ (by decide)⟩
  | initTournament g l p resv =>
    by_cases h : resv = 0
    · subst h
      by_cases hv : (validW s.params g && validW s.params l && validW s.params p) = true
      · have hv' := hv
        simp only [Bool.and_eq_true] at hv'
        exact ⟨_, execInitTournament_ok hv'.1.1 hv'.1.2 hv'.2, tournament g l p hv'.1.1 hv'.1.2 hv'.2⟩
      · exact ⟨_, execInitTournament_fail (by simpa using hv), fail _ (by simp [rowOf])⟩
    · exact ⟨_, execInitTournament_bad g l p h s, away _ _ (by decide)⟩
  | initBimode g l p resv =>
    by_cases h : resv = 0
    · subst h; exact ⟨_, execInitBimode_ok g l p s, bimode g l p⟩
    · exact ⟨_, execInitBimode_bad g l p h s, away _ _ (by decide)⟩
  | initInvalid c g l p resv =>
    by_cases h : resv = 0
    · subst h; exact ⟨_, execInitInvalid_fail c g l p s, fail _ (by simp [rowOf])⟩
    · exact ⟨_, execInitInvalid_bad c g l p h s, away _ _ (by decide)⟩
  | predict pc resv =>
    by_cases h : resv = 0
    · subst h
      cases hr : s.mode.refusal with
      | some st => exact ⟨_, execPredict_refused hr pc, away _ _ (hrefused hr)⟩
      | none =>
        cases hk : s.freeSlot with
        | none => exact ⟨_, execPredict_busy hr hk pc, away _ _ (by decide)⟩
        | some k => exact ⟨_, execPredict_ok hr hk pc, predict pc k hr hk⟩
    · exact ⟨_, execPredict_bad pc h s, away _ _ (by decide)⟩
  | train o tag pc lo hi =>
    by_cases h : lo ≠ 0 ∨ hi ≠ 0
    · exact ⟨_, execTrain_bad o tag pc h s, away _ _ (by decide)⟩
    · push Not at h
      obtain ⟨rfl, rfl⟩ := h
      cases hr : s.mode.refusal with
      | some st => exact ⟨_, execTrain_refused hr o tag pc, away _ _ (hrefused hr)⟩
      | none =>
        by_cases hm : s.slotMatches tag pc = true
        · exact ⟨_, execTrain_ok hr hm o, train o tag pc hr hm⟩
        · exact ⟨_, execTrain_protocol hr (by simpa using hm) o, away _ _ (by decide)⟩

end Sys2Proof.Machine
end

