-- ==== Sys2Proof/Laws/PerInstr.lean ====
section
/-! SUPPORT. Facts about commands as syntax, one lemma for each constructor. The family RowMatch: the word of a well-formed
command matches its row of the opcode map (spec R78). -/

namespace Sys2Proof.Laws

/-- The word of a well-formed command is of the command's row. -/
def RowMatch.Statement (i : Instr) : Prop := i.wf = true → (rowOf i).matchesWord (encode i) = true

theorem RowMatch.nop (resv : BitVec 62) : RowMatch.Statement (.nop resv) := fun _ =>
  matches_cmd rfl (by rw [toNat_encode_nop]; simp [rowOf, rowNop])

theorem RowMatch.initStatic (g l p : Width) (resv : BitVec 41) : RowMatch.Statement (.initStatic g l p resv) := fun _ =>
  matches_scheme rfl (by rw [encode, toNat_encodeInit]; simp [rowOf, rowInitStatic]; omega)

theorem RowMatch.initGshare (g l p : Width) (resv : BitVec 41) : RowMatch.Statement (.initGshare g l p resv) := fun _ =>
  matches_scheme rfl (by rw [encode, toNat_encodeInit]; simp [rowOf, rowInitGshare]; omega)

theorem RowMatch.initTournament (g l p : Width) (resv : BitVec 41) : RowMatch.Statement (.initTournament g l p resv) := fun _ =>
  matches_scheme rfl (by rw [encode, toNat_encodeInit]; simp [rowOf, rowInitTournament]; omega)

theorem RowMatch.initBimode (g l p : Width) (resv : BitVec 41) : RowMatch.Statement (.initBimode g l p resv) := fun _ =>
  matches_scheme rfl (by rw [encode, toNat_encodeInit]; simp [rowOf, rowInitBimode]; omega)

theorem RowMatch.initInvalid (scheme : BitVec 3) (g l p : Width) (resv : BitVec 41) :
    RowMatch.Statement (.initInvalid scheme g l p resv) := by
  intro h
  have hs : 4 ≤ scheme.toNat := by simpa [Instr.wf] using h
  have hlt := scheme.isLt
  have hw : (encode (.initInvalid scheme g l p resv)).toNat % 32 = scheme.toNat * 4 + 1 := by
    rw [encode, toNat_encodeInit]; omega
  simp only [rowOf, OpcodeRow.matchesWord, rowInitInvalid, beq_iff_eq]
  refine BitVec.eq_of_toNat_eq ?_
  rw [toNat_and_invalid, hw]
  obtain h | h | h | h : scheme.toNat = 4 ∨ scheme.toNat = 5 ∨ scheme.toNat = 6 ∨ scheme.toNat = 7 := by omega
  all_goals rw [h]; rfl

theorem RowMatch.predict (pc : Pc) (resv : BitVec 30) : RowMatch.Statement (.predict pc resv) := fun _ =>
  matches_cmd rfl (by rw [toNat_encode_predict]; simp [rowOf, rowPredict]; omega)

theorem RowMatch.train (o : Bool) (tag : Tag) (pc : Pc) (resvLo : BitVec 5) (resvHi : BitVec 16) :
    RowMatch.Statement (.train o tag pc resvLo resvHi) := fun _ =>
  matches_cmd rfl (by rw [toNat_encode_train]; simp [rowOf, rowTrain]; omega)

end Sys2Proof.Laws
end

