-- ==== Sys2Proof/Laws/Units.lean ====
section
/-! SUPPORT. What a training does to each table of its unit, and what a prediction and a training do to the slots. -/

namespace Sys2Proof.Machine

theorem validW_iff {p : Params} {w : Width} : validW p w = true ↔ 1 ≤ w.toNat ∧ w.toNat ≤ p.wIdxMax := by simp [validW]

theorem validW_eq_false_iff {p : Params} {w : Width} : validW p w = false ↔ w.toNat = 0 ∨ p.wIdxMax < w.toNat := by
  rw [← Bool.not_eq_true, validW_iff]; omega

theorem Mode.refusal_eq_none_iff {m : Mode} : m.refusal = none ↔ m ≠ .unconfigured ∧ m ≠ .error := by
  cases m <;> simp [Mode.refusal]

theorem State.slotMatches_iff {s : State} {tag : Tag} {pc : Pc} : s.slotMatches tag pc = true ↔
    tag.toNat < s.params.nslot ∧ (s.slot tag.toNat).valid = true ∧ (s.slot tag.toNat).pc = pc := by
  simp [State.slotMatches, and_assoc]

theorem State.slotMatches_eq_false_iff {s : State} {tag : Tag} {pc : Pc} : s.slotMatches tag pc = false ↔
    s.params.nslot ≤ tag.toNat ∨ (s.slot tag.toNat).valid = false ∨ (s.slot tag.toNat).pc ≠ pc := by
  rw [← Bool.not_eq_true, State.slotMatches_iff, not_and_or, not_and_or]; simp

/-- A slot's number fits the tag. -/
theorem State.toNat_tag_of_freeSlot {s : State} (hp : s.params.legal) {k : Nat} (hk : s.freeSlot = some k) :
    (BitVec.ofNat 8 k).toNat = k := by
  have h1 := (State.freeSlot_eq_some.1 hk).1
  have h2 := Params.nslot_le hp
  rw [BitVec.toNat_ofNat]; omega

section
variable (u : Tournament) (g l : Nat) (c : Ctx) (o : Bool)

theorem tnTrain_chooser : (tnTrain u g l c o).chooser = (tnTrainChooser u c o).chooser := rfl

theorem tnTrain_lht : (tnTrain u g l c o).lht = u.lht.write c.pidx.toNat (hshift (u.lht.read c.pidx.toNat) o l) := by
  simp only [tnTrain, tnTrainHist, tnTrainGlobal, tnTrainLocal, tnTrainChooser]; split_ifs <;> rfl

theorem tnTrain_loc : (tnTrain u g l c o).loc =
    u.loc.write (hshift (u.lht.read c.pidx.toNat) o l).toNat
      (bump2 (u.loc.read (hshift (u.lht.read c.pidx.toNat) o l).toNat) o) := by
  simp only [tnTrain, tnTrainHist, tnTrainGlobal, tnTrainLocal, tnTrainChooser]; split_ifs <;> rfl

theorem tnTrain_glob : (tnTrain u g l c o).glob = u.glob.write c.gidx.toNat (bump2 (u.glob.read c.gidx.toNat) o) := by
  simp only [tnTrain, tnTrainHist, tnTrainGlobal, tnTrainLocal, tnTrainChooser]; split_ifs <;> rfl

theorem tnTrain_hist : (tnTrain u g l c o).hist = hshift u.hist o g := by
  simp only [tnTrain, tnTrainHist, tnTrainGlobal, tnTrainLocal, tnTrainChooser]; split_ifs <;> rfl

end

section
variable (u : Bimode) (c : Ctx) (o : Bool)

theorem bmTrain_chooser : (bmTrain u c o).chooser = (bmTrainChooser u c o).chooser := by
  simp only [bmTrain, bmTrainHist, bmTrainTable]; split_ifs <;> rfl

theorem bmTrain_taken : (bmTrain u c o).taken =
    if c.sel then u.taken.write c.didx.toNat (bump2 (u.taken.read c.didx.toNat) o) else u.taken := by
  simp only [bmTrain, bmTrainHist, bmTrainTable, bmTrainChooser]; split_ifs <;> rfl

theorem bmTrain_notTaken : (bmTrain u c o).notTaken =
    if c.sel then u.notTaken else u.notTaken.write c.didx.toNat (bump2 (u.notTaken.read c.didx.toNat) o) := by
  simp only [bmTrain, bmTrainHist, bmTrainTable, bmTrainChooser]; split_ifs <;> rfl

theorem bmTrain_hist : (bmTrain u c o).hist = hshift u.hist o 11 := by
  simp only [bmTrain, bmTrainHist, bmTrainTable, bmTrainChooser]; split_ifs <;> rfl

end

section
variable (s : State)

theorem State.afterPredict_slot_same {s : State} (h : s.pcb.wf) (pc : Pc) (k : Nat) :
    (s.afterPredict pc k).slot k = { (s.unitPredict pc).2 with valid := true, pc := pc } :=
  State.slot_writeSlot_same h _ _

theorem State.afterPredict_slot_ne (pc : Pc) {j k : Nat} (h : j ≠ k) : (s.afterPredict pc k).slot j = s.slot j :=
  State.slot_writeSlot_ne s _ h

theorem State.afterTrain_slot_same {s : State} (h : s.pcb.wf) (o : Bool) (tag : Tag) :
    (s.afterTrain o tag).slot tag.toNat = Ctx.zero := by
  show (Table.write _ _ _).read _ = _
  rw [State.unitTrain_pcb]; exact Table.read_write_same h _ _

theorem State.afterTrain_slot_ne (o : Bool) {tag : Tag} {j : Nat} (h : j ≠ tag.toNat) :
    (s.afterTrain o tag).slot j = s.slot j := by
  show (Table.write _ _ _).read _ = _
  rw [State.unitTrain_pcb]; exact Table.read_write_ne _ _ h

end

end Sys2Proof.Machine
end

