-- ==== Sys2Proof/Tests/Slice0.lean ====
section
/-! SUPPORT. The model's own tests. Expected values are those of `95_test_vectors.md` (W, V and P numbers), of the rule's own
example, or written out by hand from the rule named. At the end, for each obligation with hypotheses, a theorem that shows
states and operands that meet them. -/

namespace Sys2Proof.Tests

open Sys2Proof Sys2Proof.Machine

/-! ## Helpers -/

/-- The next state, if there is one. -/
def nextOf (r : Host.Outcome State Fault Refusal) : Option State :=
  match r with
  | .next t => some t
  | .fault _ => none
  | .refused _ => none

/-- A configured instance with default parameters and freshly initialised units. -/
def configured (m : Mode) (g l p : Width) : State :=
  { State.reset with
    mode := m, cfgG := g, cfgL := l, cfgP := p, gs := gsInit, tn := tnInit Params.default, bm := bmInit Params.default }

def inStatic : State := configured .static 0 0 0
def inGshare : State := configured .gshare 2 0 0
def inTournament : State := configured .tournament 2 2 2
def inBimode : State := configured .bimode 11 0 11

/-- The same with two slots (`W_SEQ = 1`). -/
def twoSlots (s : State) : State := { s with params := { Params.default with wSeq := 1 } }

/-- The outstanding prediction of P1 step 2. -/
def ctxGshare : Ctx := { Ctx.zero with valid := true, pc := 0xA, gidx := 2 }
/-- The outstanding prediction of P2 step 6. -/
def ctxTournament : Ctx := { Ctx.zero with valid := true, pc := 4, gidx := 2, pidx := 0, lidx := 1, gpred := false, lpred := true }
/-- The outstanding prediction of P3 step 2. -/
def ctxBimode : Ctx := { Ctx.zero with valid := true, pc := 0x123, didx := 0x123, cidx := 0x123 }
/-- An outstanding Static prediction. -/
def ctxStatic : Ctx := { Ctx.zero with valid := true, pc := 0x40 }

/-! ## Decoding: words written out from R72 to R75, one for each constructor -/

theorem test_decode_nop : decode 0b00 = .nop 0 := by decide

theorem test_decode_initStatic :  -- reserved 1 (bit 23), P = 3, L = 2, G = 1, scheme 000
    decode 0b1_000011_000010_000001_000_01 = .initStatic 1 2 3 1 := by decide

theorem test_decode_initGshare : decode 0b000011_000010_000001_001_01 = .initGshare 1 2 3 0 := by decide

theorem test_decode_initTournament : decode 0b000011_000010_000001_010_01 = .initTournament 1 2 3 0 := by decide

theorem test_decode_initBimode : decode 0b000011_000010_000001_011_01 = .initBimode 1 2 3 0 := by decide

theorem test_decode_initInvalid :
    decode 0b000011_000010_000001_100_01 = .initInvalid 4 1 2 3 0 ∧
    decode 0b000011_000010_000001_111_01 = .initInvalid 7 1 2 3 0 := by decide

theorem test_decode_predict :  -- pc = 0x80000001, reserved bits 31 and 2 set
    decode 0b10000000000000000000000000000001_10000000000000000000000000000110 = .predict 0x80000001 0x20000001 := by decide

theorem test_decode_train :  -- pc = 5, reserved 31:16 = 2, tag = 0xFE, reserved 7:3 = 1, o = 1
    decode 0b101_0000000000000010_11111110_00001_1_11 = .train true 0xFE 5 1 2 := by decide

theorem test_encode_words :  -- the request words of R82 and of the rules' examples
    encode (.nop 0) = 0x0 ∧ encode (.initStatic 0 0 0 0) = 0x1 ∧ encode (.initGshare 2 0 0 0) = 0x45 ∧
    encode (.initTournament 2 2 2 0) = 0x41049 ∧ encode (.initBimode 0 0 0 0) = 0xD ∧
    encode (.initInvalid 7 5 0 0 0) = 0xBD ∧ encode (.predict 0xA 0) = 0x0000000A00000002 ∧
    encode (.train true 1 0x40 0 0) = 0x0000004000000107 := by decide

theorem test_decodeBits_one_word_only :  -- R70
    decodeBits 65 0 = .error .notOneWord ∧ decodeTableWord 65 0 = none ∧
    decodeTableWord 64 0x11 = some (.initInvalid 4 0 0 0 0) ∧ decodeTableWord 8 0x05 = some (.initGshare 0 0 0 0) := by decide

/-! ## Well-formedness -/

theorem test_wf_refuses_scheme_below_four :  -- R78: INIT.INVALID covers 4 to 7
    (Instr.initInvalid 3 0 0 0 0).wf = false ∧ (Instr.initInvalid 4 0 0 0 0).wf = true := by decide

theorem test_legal_refuses_reserved_bits :  -- R79, V14
    (decode 0x8000000000000000).legal = false ∧ (decode 0x0000000000800001).legal = false ∧
    (decode 0x0000004000000006).legal = false ∧ (decode 0x000000400000000B).legal = false ∧
    (decode 0x0000004000010003).legal = false ∧ (decode 0x00000000007FFFED).legal = true := by decide

/-! ## Tables -/

theorem test_table_write_keeps_order_and_drops_fill :
    (((Table.filled (1 : Counter2)).write 5 2).write 3 0).cells = [(3, 0), (5, 2)] ∧
    ((((Table.filled (1 : Counter2)).write 5 2).write 3 0).write 5 1).cells = [(3, 0)] := by decide

/-! ## Counters and shifter: V1, V3, V5 -/

theorem test_bump2_every_input :  -- V1
    ([0, 1, 2, 3].map fun v => (bump2 v false, bump2 v true)) = [(0, 1), (0, 2), (1, 3), (2, 3)] := by decide

theorem test_bump3_every_input :  -- V3
    ([0, 1, 2, 3, 4, 5, 6, 7].map fun v => (bump3 v false, bump3 v true)) =
      [(0, 1), (0, 2), (1, 3), (2, 4), (3, 5), (4, 6), (5, 7), (6, 7)] := by decide

theorem test_hshift_vectors :  -- V5
    hshift 1 true 1 = 1 ∧ hshift 0b11 false 2 = 0b10 ∧ hshift 0b10 true 3 = 0b101 ∧ hshift 0x400 true 11 = 1 ∧
    hshift 0xFFFFFFFF false 32 = 0xFFFFFFFE ∧ hshift 0x80000000 true 32 = 1 := by decide

theorem test_gsIndex_vectors :  -- V6
    gsIndex ⟨Table.filled 1, 0b01⟩ 2 0xA = 3 ∧ gsIndex ⟨Table.filled 1, 0b101⟩ 3 0x12345678 = 5 ∧
    gsIndex ⟨Table.filled 1, 0x80000000⟩ 32 0xFFFFFFFF = 0x7FFFFFFF := by decide

theorem test_bimode_indices :  -- V11
    bmDidx { bmInit Params.default with hist := 0x7FF } 0xFFFFF800 = 0x7FF ∧ bmCidx 0xFFFFF800 = 0 ∧ bmCidx 0x7FF = 0x7FF := by
  decide

/-! ## Commands: one step each -/

theorem test_nop : nextOf (exec (.nop 0) State.reset) = some { State.reset with responses := [0x00000000] } := by decide

theorem test_initStatic_reserved :  -- V14, bit 23: MODE unchanged
    nextOf (exec (decode 0x0000000000800001) inBimode) = some { inBimode with responses := [0x00000001] } := by decide

theorem test_initStatic : (nextOf (exec (decode 0x7FFFE1) inBimode)).map (fun t => (t.mode, t.cfgG, t.responses)) =
    some (.static, 0, [0]) := by decide  -- V14

theorem test_initGshare_widths :  -- V14: G = 32 is legal, G = 0 and G = 33 are not
    ((nextOf (exec (decode 0x405) State.reset)).map fun t => (t.mode, t.cfgG, t.responses)) = some (.gshare, 32, [0]) ∧
    ((nextOf (exec (decode 0x5) State.reset)).map fun t => (t.mode, t.responses)) = some (.error, [3]) ∧
    ((nextOf (exec (decode 0x425) inStatic)).map fun t => (t.mode, t.responses)) = some (.error, [3]) := by decide

theorem test_initTournament_L0 :  -- V14
    ((nextOf (exec (decode 0x40049) inStatic)).map fun t => (t.mode, t.cfgP, t.responses)) = some (.error, 0, [3]) := by decide

theorem test_initBimode :  -- V14: CFG = (11, 0, 11)
    ((nextOf (exec (decode 0x7FFFED) inStatic)).map fun t => (t.cfgG, t.cfgL, t.cfgP, t.bm.chooser.read 2047, t.responses)) =
      some (11, 0, 11, 3, [0]) := by decide

theorem test_initInvalid_discards :  -- V14, R206
    ((nextOf (exec (decode 0xBD) (inStatic.writeSlot 0 ctxStatic))).map fun t => (t.mode, t.slot 0, t.responses)) =
      some (.error, Ctx.zero, [3]) := by decide

theorem test_predict_gshare :  -- P1 step 4: history 0b01, index 3
    ((nextOf (exec (.predict 0xA 0) { inGshare with gs := ⟨⟨1, [(2, 2)]⟩, 1⟩ })).map fun t => (t.slot 0, t.responses)) =
      some ({ Ctx.zero with valid := true, pc := 0xA, gidx := 3 }, [0]) := by decide

theorem test_predict_tournament :  -- P2 step 6
    ((nextOf (exec (.predict 4 0)
      { inTournament with tn := ⟨⟨1, [(0, 2), (1, 0)]⟩, ⟨1, [(0, 0), (1, 2)]⟩, ⟨0, [(0, 1)]⟩, ⟨1, []⟩, 0b10⟩ })).map
      fun t => (t.slot 0, t.responses)) = some (ctxTournament, [0]) := by decide

theorem test_train_tournament :  -- P2 step 7
    ((nextOf (exec (.train true 0 4 0 0)
      ({ inTournament with tn := ⟨⟨1, [(0, 2), (1, 0)]⟩, ⟨1, [(0, 0), (1, 2)]⟩, ⟨0, [(0, 1)]⟩, ⟨1, []⟩, 0b10⟩ }.writeSlot 0
        ctxTournament))).map fun t => (t.tn, t.slot 0, t.responses)) =
      some (⟨⟨1, [(0, 2), (1, 0), (2, 2)]⟩, ⟨1, [(0, 0), (1, 2), (3, 2)]⟩, ⟨0, [(0, 3)]⟩, ⟨1, [(2, 2)]⟩, 0b01⟩,
        Ctx.zero, [0]) := by decide

theorem test_train_bimode :  -- P3 step 3
    ((nextOf (exec (.train true 0 0x123 0 0) (inBimode.writeSlot 0 ctxBimode))).map fun t => (t.bm, t.responses)) =
      some (⟨⟨2, []⟩, ⟨1, [(0x123, 2)]⟩, ⟨3, [(0x123, 4)]⟩, 1⟩, [0]) := by decide

/-- P5 step 6: the recorded index 3 is trained, though pc 0xB and the history 0b01 would now give 2. -/
theorem test_train_gshare_recorded_index :
    ((nextOf (exec (.train true 1 0xB 0 0)
      ((twoSlots { inGshare with gs := ⟨⟨1, [(2, 2)]⟩, 1⟩ }).writeSlot 1 { ctxGshare with pc := 0xB, gidx := 3 }))).map
      fun t => t.gs) = some ⟨⟨1, [(2, 2), (3, 2)]⟩, 0b11⟩ := by decide

/-- With two slots, a second prediction recorded while the chooser was 3 moves it from 4 to 5 (R173), past the bound R178
states without its premise of one outstanding prediction (log 9). -/
theorem test_train_bimode_past_R178 :
    ((nextOf (exec (.train true 1 0x123 0 0)
      ((twoSlots { inBimode with bm := ⟨⟨2, []⟩, ⟨1, [(0x123, 2)]⟩, ⟨3, [(0x123, 4)]⟩, 1⟩ }).writeSlot 1 ctxBimode))).map
      fun t => t.bm.chooser.read 0x123) = some 5 := by decide

/-! ## The step and the caller's side -/

theorem test_step_takes_the_next_request :
    ((nextOf (step (State.reset.withFetchWord 64 0x45))).map fun t => (t.mode, t.cfgG, t.pending, t.responses)) =
      some (.gshare, 2, [], [0]) := by decide

theorem test_assembler_lines :  -- R82, and the words of P1, P2 and P4
    (readLine "INIT gshare, G=2".toList).bind AsmLine.word = some 0x45 ∧
    (readLine "INIT tournament, G=2, L=2, P=2".toList).bind AsmLine.word = some 0x41049 ∧
    (readLine "INIT #7, G=5".toList).bind AsmLine.word = some 0xBD ∧
    (readLine "PREDICT 0x40".toList).bind AsmLine.word = some 0x0000004000000002 ∧
    (readLine "TRAIN 1, 0x40, T".toList).bind AsmLine.word = some 0x0000004000000107 := by decide

theorem test_assembler_scheme_numbers :  -- R82's forms of numbers after `#` (log 10), from 4 to 7 only
    readScheme "#0x4".toList = some 4 ∧ readScheme "#0b111".toList = some 7 ∧ readScheme "#3".toList = none ∧
    readScheme "#8".toList = none ∧ readScheme "#".toList = none := by decide

theorem test_assembler_refuses :  -- a width of 64, a scheme number 3, a missing outcome
    readLine "INIT gshare, G=64".toList = none ∧ readLine "INIT #3".toList = none ∧ readLine "TRAIN 0, 10".toList = none ∧
    readLine "RESOLVE 0b1010, N".toList = some (.resolve 0xA false) := by decide

theorem test_resolve :  -- P1 steps 2 and 3
    ((nextOf (resolve 0xA true inGshare)).map fun t => (t.gs, t.pcb.cells, t.responses)) =
      some (⟨⟨1, [(2, 2)]⟩, 1⟩, [], [0, 0]) := by decide

/-! ## The hypotheses of the obligations are met -/

theorem inv_reset : State.reset.Inv := ⟨by decide, by decide, by decide, by decide, by decide⟩
theorem inv_inStatic : inStatic.Inv := ⟨by decide, by decide, by decide, by decide, by decide⟩
theorem inv_inGshare : inGshare.Inv := ⟨by decide, by decide, by decide, by decide, by decide⟩
theorem inv_inTournament : inTournament.Inv := ⟨by decide, by decide, by decide, by decide, by decide⟩
theorem inv_inBimode : inBimode.Inv := ⟨by decide, by decide, by decide, by decide, by decide⟩
theorem inv_staticSlot : (inStatic.writeSlot 0 ctxStatic).Inv := ⟨by decide, by decide, by decide, by decide, by decide⟩
theorem inv_gshareSlot : (inGshare.writeSlot 0 ctxGshare).Inv := ⟨by decide, by decide, by decide, by decide, by decide⟩
theorem inv_tournamentSlot : (inTournament.writeSlot 0 ctxTournament).Inv :=
  ⟨by decide, by decide, by decide, by decide, by decide⟩
theorem inv_bimodeSlot : (inBimode.writeSlot 0 ctxBimode).Inv := ⟨by decide, by decide, by decide, by decide, by decide⟩

theorem witness_DecodeOfEncodeIsIdentity : (Instr.initInvalid 4 63 63 63 0x1FFFFFFFFFF).wf = true := by decide

theorem witness_FieldsAreTheNumbersTheirBitsAre :
    (0xFFFFFFFFFFFFFFFC : Request).toNat % 4 = 0 ∧ (0xFFFFFFFFFFFFFFFE : Request).toNat % 4 = 2 ∧
    (0xFFFFFFFFFFFFFFFF : Request).toNat % 4 = 3 ∧
    ((0xFFFFFFFFFFFFFFE1 : Request).toNat % 4 = 1 ∧ (0xFFFFFFFFFFFFFFE1 : Request).toNat / 4 % 8 = 0) ∧
    ((0xFFFFFFFFFFFFFFE5 : Request).toNat % 4 = 1 ∧ (0xFFFFFFFFFFFFFFE5 : Request).toNat / 4 % 8 = 1) ∧
    ((0xFFFFFFFFFFFFFFE9 : Request).toNat % 4 = 1 ∧ (0xFFFFFFFFFFFFFFE9 : Request).toNat / 4 % 8 = 2) ∧
    ((0xFFFFFFFFFFFFFFED : Request).toNat % 4 = 1 ∧ (0xFFFFFFFFFFFFFFED : Request).toNat / 4 % 8 = 3) ∧
    ((0xFFFFFFFFFFFFFFF1 : Request).toNat % 4 = 1 ∧ 4 ≤ (0xFFFFFFFFFFFFFFF1 : Request).toNat / 4 % 8) := by decide

/-- The premises on the mask: it is the reserved-zero mask of the format of the word. The words below are at its edges. -/
def metMask (w mask : Request) : Prop :=
  (w &&& 3 = 0 → mask = 0xFFFFFFFFFFFFFFFC) ∧ (w &&& 3 = 1 → mask = 0xFFFFFFFFFF800000) ∧
  (w &&& 3 = 2 → mask = 0x00000000FFFFFFFC) ∧ (w &&& 3 = 3 → mask = 0x00000000FFFF00F8)

theorem witness_ReservedBitsGiveBadRequest :
    (metMask 0x8000000000000000 0xFFFFFFFFFFFFFFFC ∧ (0x8000000000000000 : Request) &&& 0xFFFFFFFFFFFFFFFC ≠ 0) ∧
    (metMask 0x0000000000800001 0xFFFFFFFFFF800000 ∧ (0x0000000000800001 : Request) &&& 0xFFFFFFFFFF800000 ≠ 0) ∧
    (metMask 0x0000000080000002 0x00000000FFFFFFFC ∧ (0x0000000080000002 : Request) &&& 0x00000000FFFFFFFC ≠ 0) ∧
    (metMask 0x0000000080000003 0x00000000FFFF00F8 ∧ (0x0000000080000003 : Request) &&& 0x00000000FFFF00F8 ≠ 0) := by
  unfold metMask; decide

theorem witness_ReservedBitsGiveBadRequest_clear :
    (metMask 0 0xFFFFFFFFFFFFFFFC ∧ (0 : Request) &&& 0xFFFFFFFFFFFFFFFC = 0) ∧
    (metMask 0x7FFFFD 0xFFFFFFFFFF800000 ∧ (0x7FFFFD : Request) &&& 0xFFFFFFFFFF800000 = 0) ∧
    (metMask 0xFFFFFFFF00000002 0x00000000FFFFFFFC ∧ (0xFFFFFFFF00000002 : Request) &&& 0x00000000FFFFFFFC = 0) ∧
    (metMask 0xFFFFFFFF0000FF07 0x00000000FFFF00F8 ∧ (0xFFFFFFFF0000FF07 : Request) &&& 0x00000000FFFF00F8 = 0) := by
  unfold metMask; decide

theorem witness_AssembledLinesDecodeToTheirCommands : 4 ≤ (4 : BitVec 3).toNat := by decide

theorem witness_StepRunsTheDecodedRequest :
    ({ State.reset with pending := [0x45] } : State).pending = [0x45] ∧ decode 0x45 = .initGshare 2 0 0 0 := by decide

theorem witness_WithoutRequestStateStays : State.reset.pending = [] := by decide

theorem witness_EachRequestGetsOneResponseInOneStep : ({ State.reset with pending := [0x45, 0] } : State).pending = [0x45, 0] := by
  decide

/-- A response with taken = 1 and tag = 1: a Static prediction with slot 0 taken. -/
theorem witness_ResponseWordLayout : ∃ (s t : State) (r : Response),
    exec (.predict 0x44 0) s = .next t ∧ t.responses = r :: s.responses ∧ responseTaken r = true ∧ responseTag r ≠ 0 :=
  ⟨(twoSlots inStatic).writeSlot 0 ctxStatic, _, 0x00000108, rfl, by decide, by decide, by decide⟩

theorem witness_HistoryShiftAppendsTheOutcome :
    (1 ≤ 1 ∧ 1 ≤ 32 ∧ (1 : History).toNat < 2 ^ 1) ∧ (1 ≤ 32 ∧ 32 ≤ 32 ∧ (0xFFFFFFFF : History).toNat < 2 ^ 32) := by decide

theorem witness_CounterAndShifterLaws :
    2 ^ 2 - 1 ≤ 3 ∧ 2 ^ 3 - 1 ≤ 7 ∧ readOut (2 : Counter2) = true ∧ readOut (3 : Counter3) = false ∧
    (1 ≤ 1 ∧ 1 ≤ 32 ∧ 1 ≤ [true].length) ∧ (1 ≤ 2 ∧ 2 ≤ 32 ∧ 2 ≤ [true, false].length) := by decide

theorem witness_InitStaticSelectsStatic : (1 : BitVec 41) ≠ 0 ∧ (0 : BitVec 41) = 0 := by decide

theorem witness_InitGshareSelectsGshare :
    (1 ≤ (1 : Width).toNat ∧ (1 : Width).toNat ≤ State.reset.params.wIdxMax) ∧
    (1 ≤ (32 : Width).toNat ∧ (32 : Width).toNat ≤ State.reset.params.wIdxMax) ∧
    (0 : Width).toNat = 0 ∧ State.reset.params.wIdxMax < (33 : Width).toNat := by decide

theorem witness_InitTournamentSelectsTournament :
    (∀ w ∈ [(1 : Width), 32, 2], 1 ≤ w.toNat ∧ w.toNat ≤ State.reset.params.wIdxMax) ∧
    (∃ w ∈ [(2 : Width), 0, 2], w.toNat = 0 ∨ State.reset.params.wIdxMax < w.toNat) ∧
    (∃ w ∈ [(2 : Width), 2, 33], w.toNat = 0 ∨ State.reset.params.wIdxMax < w.toNat) := by decide

theorem witness_InitBimodeSelectsBimode : (1 : BitVec 41) ≠ 0 ∧ (0 : BitVec 41) = 0 := by decide

theorem witness_InitInvalidEntersError : (1 : BitVec 41) ≠ 0 ∧ (0 : BitVec 41) = 0 := by decide

theorem witness_InitDiscardsOutstandingPredictions : ∃ (s t : State),
    exec (.initGshare 2 0 0 0) s = .next t ∧ t.responses = 0 :: s.responses ∧ (s.slot 0).valid = true :=
  ⟨inStatic.writeSlot 0 ctxStatic, _, rfl, by decide, by decide⟩

theorem witness_PredictIsTurnedAway :
    (1 : BitVec 30) ≠ 0 ∧ State.reset.mode = .unconfigured ∧ (configured .error 0 0 0).mode = .error ∧
    ((inStatic.writeSlot 0 ctxStatic).mode ≠ .unconfigured ∧ (inStatic.writeSlot 0 ctxStatic).mode ≠ .error ∧
      ∀ k < (inStatic.writeSlot 0 ctxStatic).params.nslot, ((inStatic.writeSlot 0 ctxStatic).slot k).valid = true) := by decide

theorem witness_PredictInStatic : inStatic.Inv ∧ inStatic.mode = .static ∧ inStatic.freeSlot = some 0 :=
  ⟨inv_inStatic, by decide, by decide⟩

theorem witness_PredictInGshare : inGshare.Inv ∧ inGshare.mode = .gshare ∧ inGshare.freeSlot = some 0 :=
  ⟨inv_inGshare, by decide, by decide⟩

theorem witness_PredictInTournament : inTournament.Inv ∧ inTournament.mode = .tournament ∧ inTournament.freeSlot = some 0 :=
  ⟨inv_inTournament, by decide, by decide⟩

theorem witness_PredictInBimode : inBimode.Inv ∧ inBimode.mode = .bimode ∧ inBimode.freeSlot = some 0 :=
  ⟨inv_inBimode, by decide, by decide⟩

/-- TRAIN's protocol errors: a tag at NSLOT, a free slot, another pc. -/
theorem witness_TrainIsTurnedAway :
    (1 : BitVec 5) ≠ 0 ∧ (1 : BitVec 16) ≠ 0 ∧ State.reset.mode = .unconfigured ∧ (configured .error 0 0 0).mode = .error ∧
    ((inStatic.writeSlot 0 ctxStatic).mode ≠ .unconfigured ∧ (inStatic.writeSlot 0 ctxStatic).mode ≠ .error) ∧
    (inStatic.writeSlot 0 ctxStatic).params.nslot ≤ (1 : Tag).toNat ∧
    (inStatic.slot (0 : Tag).toNat).valid = false ∧
    ((inStatic.writeSlot 0 ctxStatic).slot (0 : Tag).toNat).pc ≠ 0x44 := by decide

theorem witness_TrainInStatic : ∃ (s : State) (tag : Tag) (pc : Pc), s.Inv ∧ s.mode = .static ∧ tag.toNat < s.params.nslot ∧
    (s.slot tag.toNat).valid = true ∧ (s.slot tag.toNat).pc = pc :=
  ⟨inStatic.writeSlot 0 ctxStatic, 0, 0x40, inv_staticSlot, by decide, by decide, by decide, by decide⟩

theorem witness_TrainInGshare : ∃ (s : State) (tag : Tag) (pc : Pc), s.Inv ∧ s.mode = .gshare ∧ tag.toNat < s.params.nslot ∧
    (s.slot tag.toNat).valid = true ∧ (s.slot tag.toNat).pc = pc :=
  ⟨inGshare.writeSlot 0 ctxGshare, 0, 0xA, inv_gshareSlot, by decide, by decide, by decide, by decide⟩

/-- Only the local sub-prediction was right: the chooser's first clause. -/
theorem witness_TrainInTournament : ∃ (s : State) (o : Bool) (tag : Tag) (pc : Pc) (c : Ctx) (np : Nat),
    s.Inv ∧ s.mode = .tournament ∧ tag.toNat < s.params.nslot ∧ s.slot tag.toNat = c ∧ c.valid = true ∧ c.pc = pc ∧
    np = (2 * (s.tn.lht.read c.pidx.toNat).toNat + o.toNat) % 2 ^ s.widthL ∧ c.lpred = o ∧ c.gpred ≠ o :=
  ⟨inTournament.writeSlot 0 ctxTournament, true, 0, 4, ctxTournament, 1, inv_tournamentSlot, by decide, by decide, by decide,
    by decide, by decide, by decide, by decide, by decide⟩

/-- The other chooser clauses: only the global one right, and both the same. -/
theorem witness_TrainInTournament_chooser :
    (ctxTournament.gpred = false ∧ ctxTournament.lpred ≠ false) ∧
    { ctxTournament with lpred := false }.lpred = { ctxTournament with lpred := false }.gpred := by decide

/-- The taken clause of the chooser. -/
theorem witness_TrainInBimode : ∃ (s : State) (o : Bool) (tag : Tag) (pc : Pc) (c : Ctx),
    s.Inv ∧ s.mode = .bimode ∧ tag.toNat < s.params.nslot ∧ s.slot tag.toNat = c ∧ c.valid = true ∧ c.pc = pc ∧
    o = true ∧ c.sel = false ∧ c.selpred = false :=
  ⟨inBimode.writeSlot 0 ctxBimode, true, 0, 0x123, ctxBimode, inv_bimodeSlot, by decide, by decide, by decide, by decide,
    by decide, by decide, by decide, by decide⟩

/-- The not-taken clause, in a state that meets the invariant. -/
theorem witness_TrainInBimode_notTaken :
    (inBimode.writeSlot 0 { ctxBimode with sel := true, selpred := true }).Inv ∧
    ((inBimode.writeSlot 0 { ctxBimode with sel := true, selpred := true }).slot 0).sel = true ∧
    ((inBimode.writeSlot 0 { ctxBimode with sel := true, selpred := true }).slot 0).selpred = true :=
  ⟨⟨by decide, by decide, by decide, by decide, by decide⟩, by decide, by decide⟩

/-- The clauses in which the TRAIN is not issued. -/
theorem witness_ResolveTrainsItsOwnPrediction_away :
    State.reset.mode = .unconfigured ∧ (configured .error 0 0 0).mode = .error ∧
    ((inStatic.writeSlot 0 ctxStatic).mode ≠ .unconfigured ∧ (inStatic.writeSlot 0 ctxStatic).mode ≠ .error ∧
      ∀ k < (inStatic.writeSlot 0 ctxStatic).params.nslot, ((inStatic.writeSlot 0 ctxStatic).slot k).valid = true) := by decide

theorem witness_ResolveTrainsItsOwnPrediction :
    inGshare.Inv ∧ inGshare.mode ≠ .unconfigured ∧ inGshare.mode ≠ .error ∧ inGshare.freeSlot = some 0 :=
  ⟨inv_inGshare, by decide, by decide, by decide⟩

/-- An error that changes nothing, and the failed INIT that does. -/
theorem witness_ErrorsChangeNothingButFailedInit :
    (∃ t, exec (.predict 0 0) State.reset = .next t ∧ t.responses = 2 :: State.reset.responses ∧ responseStatus 2 ≠ 0) ∧
    (∃ t, exec (.initGshare 0 0 0 0) inStatic = .next t ∧ t.responses = 3 :: inStatic.responses ∧ responseStatus 3 ≠ 0) :=
  ⟨⟨_, rfl, by decide, by decide⟩, ⟨_, rfl, by decide, by decide⟩⟩

theorem witness_OnlyInitWritesTheConfiguration :
    (∃ t, exec (.train true 0 0xA 0 0) (inGshare.writeSlot 0 ctxGshare) = .next t) ∧
    rowOf (.train true 0 0xA 0 0) ∈ [rowNop, rowPredict, rowTrain] := ⟨⟨_, rfl⟩, by decide⟩

theorem witness_EachUnitIsWrittenByItsOwnCommands :
    (∃ t, exec (.train true 0 0xA 0 0) (inGshare.writeSlot 0 ctxGshare) = .next t ∧
      t.gs ≠ (inGshare.writeSlot 0 ctxGshare).gs) ∧
    (∃ t, exec (.initTournament 2 2 2 0) State.reset = .next t ∧ t.tn ≠ State.reset.tn) ∧
    (∃ t, exec (.initBimode 0 0 0 0) State.reset = .next t ∧ t.bm ≠ State.reset.bm) :=
  ⟨⟨_, rfl, by decide⟩, ⟨_, rfl, by decide⟩, ⟨_, rfl, by decide⟩⟩

theorem witness_PredictAndTrainWriteOneSlot :
    inGshare.tablesWf ∧ (∃ t, exec (.nop 0) inGshare = .next t) ∧
    (∃ t, exec (.predict 0xA 0) inGshare = .next t) ∧ inGshare.freeSlot ≠ some 1 ∧
    (∃ t, exec (.train true 0 0xA 0 0) inGshare = .next t) ∧ (0 : Tag).toNat ≠ 1 :=
  ⟨inv_inGshare.tables, ⟨_, rfl⟩, ⟨_, rfl⟩, by decide, ⟨_, rfl⟩, by decide⟩

/-- Unit tables at other values than the model's reset, and widths at both ends. -/
theorem witness_FirstRequestAfterReset : ∃ (gs : Gshare) (tn : Tournament) (bm : Bimode) (s : State),
    s = { State.resetWith Params.default with gs := gs, tn := tn, bm := bm } ∧ s ≠ State.reset ∧
    (1 ≤ (32 : Width).toNat ∧ (32 : Width).toNat ≤ Params.default.wIdxMax) ∧
    (∀ w ∈ [(1 : Width), 32, 2], 1 ≤ w.toNat ∧ w.toNat ≤ Params.default.wIdxMax) :=
  ⟨gsInit, tnInit Params.default, bmInit Params.default, _, rfl, by decide, by decide, by decide⟩

theorem witness_ResetMeetsTheInvariant :
    Params.default.legal ∧ ({ wIdxMax := 11, wSeq := 8, tgInit := 2, tlInit := 2, tcInit := 2, bcInit := 0 } : Params).legal := by
  decide

theorem witness_EveryStepKeepsTheInvariant : ∃ s t : State, s.Inv ∧ step s = .next t ∧ t ≠ s :=
  ⟨{ inGshare with pending := [0x0000000A00000002] }, _,
    ⟨by decide, by decide, by decide, by decide, by decide⟩, rfl, by decide⟩

theorem witness_InvariantBoundsEveryRead :
    ((inGshare.writeSlot 0 ctxGshare).Inv ∧ ((inGshare.writeSlot 0 ctxGshare).slot 0).valid = true ∧
      (inGshare.writeSlot 0 ctxGshare).mode = .gshare) ∧
    ((inTournament.writeSlot 0 ctxTournament).Inv ∧ ((inTournament.writeSlot 0 ctxTournament).slot 0).valid = true ∧
      (inTournament.writeSlot 0 ctxTournament).mode = .tournament) ∧
    ((inBimode.writeSlot 0 ctxBimode).Inv ∧ ((inBimode.writeSlot 0 ctxBimode).slot 0).valid = true ∧
      (inBimode.writeSlot 0 ctxBimode).mode = .bimode) ∧
    (State.reset.Inv ∧ (State.reset.slot 0).valid = false ∧ State.reset.mode = .unconfigured) :=
  ⟨⟨inv_gshareSlot, by decide, by decide⟩, ⟨inv_tournamentSlot, by decide, by decide⟩, ⟨inv_bimodeSlot, by decide, by decide⟩,
    ⟨inv_reset, by decide, by decide⟩⟩

theorem witness_SingleOutstandingContextStaysFresh : ∃ s t : State,
    s.Inv ∧ s.freshContext ∧ (s.slot 0).valid = true ∧ step s = .next t :=
  ⟨{ inGshare.writeSlot 0 ctxGshare with pending := [0x0000000A00000007] }, _,
    ⟨by decide, by decide, by decide, by decide, by decide⟩, by decide, by decide, rfl⟩

/-- Slot 1 of two, in each scheme that has state. -/
theorem witness_RecordedContextEqualsRecomputation :
    (((twoSlots inGshare).writeSlot 1 ctxGshare).slotFresh 1 ∧ ((twoSlots inGshare).writeSlot 1 ctxGshare).slot 1 = ctxGshare ∧
      ctxGshare.valid = true) ∧
    (((twoSlots inBimode).writeSlot 1 ctxBimode).slotFresh 1 ∧ ((twoSlots inBimode).writeSlot 1 ctxBimode).slot 1 = ctxBimode ∧
      ctxBimode.valid = true) ∧
    (((twoSlots { inTournament with tn := ⟨⟨1, []⟩, ⟨1, [(1, 2)]⟩, ⟨0, [(0, 1)]⟩, ⟨1, []⟩, 0b10⟩ }).writeSlot 1
      ctxTournament).slotFresh 1 ∧ ctxTournament.valid = true) := by decide

/-- Two slots: slot 0 holds a fresh context, and the step is a PREDICT that takes slot 1. -/
theorem witness_ContextsStayFreshUntilATrain : ∃ s t : State, s.Inv ∧ s.params.wSeq = 1 ∧ (s.slot 0).valid = true ∧
    s.slotFresh 0 ∧ s.slotFresh 1 ∧ step s = .next t ∧ (t.slot 1).valid = true ∧
    ∀ (w : Request) (rest : List Request), s.pending = w :: rest → rowOf (decode w) = rowTrain →
      t.responses ≠ 0 :: s.responses :=
  ⟨{ (twoSlots inGshare).writeSlot 0 ctxGshare with pending := [0x0000000B00000002] }, _,
    ⟨by decide, by decide, by decide, by decide, by decide⟩, by decide, by decide, by decide, by decide, rfl, by decide,
    by rintro w rest h; cases h; decide⟩

theorem witness_BimodeChooserStaysBetweenInitAndFour : ∃ s t : State,
    s.Inv ∧ s.freshContext ∧ s.chooserBetween ∧ s.mode = .bimode ∧ step s = .next t ∧ t.bm.chooser ≠ s.bm.chooser :=
  ⟨{ inBimode.writeSlot 0 ctxBimode with pending := [0x0000012300000007] }, _,
    ⟨by decide, by decide, by decide, by decide, by decide⟩, by decide, by decide, by decide, rfl, by decide⟩

theorem witness_UnspecifiedContentsAreUnobservable :
    State.reset.sameButInactive { State.reset with gs := gsInit, tn := tnInit Params.default, bm := bmInit Params.default } ∧
    State.reset ≠ { State.reset with gs := gsInit, tn := tnInit Params.default, bm := bmInit Params.default } := by decide

theorem witness_GshareLaws :
    gsInit.table.wf ∧ 1 ≤ 1 ∧ 1 ≤ 32 ∧ 32 ≤ 32 ∧ 1 ≤ [(ctxGshare, true)].length ∧ (2 : Nat) ≠ ctxBimode.gidx.toNat := by decide

theorem witness_TournamentChooserConverges : ∃ cs : List (Ctx × Bool),
    (tnInit Params.default).chooser.wf ∧ 3 ≤ (cs.filter (fun co => co.1.gidx.toNat == 2)).length ∧
    ∀ co ∈ cs, co.1.gidx.toNat = 2 → co.1.lpred = co.2 ∧ co.1.gpred ≠ co.2 :=
  ⟨[(ctxTournament, true), (Ctx.zero, true), (ctxTournament, true), (ctxTournament, true)], by decide, by decide, by decide⟩

/-- The other clause: only the global sub-prediction was right. -/
theorem witness_TournamentChooserConverges_global : ∃ cs : List (Ctx × Bool),
    (tnInit Params.default).chooser.wf ∧ 3 ≤ (cs.filter (fun co => co.1.gidx.toNat == 2)).length ∧
    ∀ co ∈ cs, co.1.gidx.toNat = 2 → co.1.gpred = co.2 ∧ co.1.lpred ≠ co.2 :=
  ⟨[(ctxTournament, false), (ctxTournament, false), (ctxTournament, false)], by decide, by decide, by decide⟩

theorem witness_BimodeTablesAreIsolated :
    (∀ co ∈ [({ ctxBimode with sel := true }, true)], co.1.sel = true) ∧ (∀ co ∈ [(ctxBimode, true)], co.1.sel = false) := by
  decide

end Sys2Proof.Tests
end

section
/-! The step's own rule: what a step does with a pending request (spec R55, R59), and the obligation that says so. -/

namespace Sys2Proof.Machine

/-- The caller's next request is decoded and run in the state that no longer holds it. -/
theorem step_of_pending_cons {s : State} {w : Request} {rest : List Request} (h : s.pending = w :: rest) :
    step s = exec (decode w) (s.dequeue rest) := by
  rw [step, h]

/-- Settles O8: the step's rule at the request's decoded command, with `dequeue` written out as the record update it is. -/
theorem stepRunsTheDecodedRequest : Obligations.StepRunsTheDecodedRequest := by
  intro s w rest i hpending hdecode
  rw [step_of_pending_cons hpending, hdecode, State.dequeue]

end Sys2Proof.Machine
end

section
/-! What the invariant says about reads, and how each part of the state keeps it: the invariant's parts over the tables, over the
operations of the units, and over the updates the commands are made of (spec R24, R33, R35). -/

namespace Sys2Proof.Machine

/-! ## Tables -/

theorem Table.within.write {α : Type} [DecidableEq α] {t : Table α} {n i : Nat} (h : t.within n) (hi : i < 2 ^ n) (v : α) :
    (t.write i v).within n := Table.forall_write h hi

theorem Table.patternsBelow.write {t : Table History} {n : Nat} {v : History} (h : t.patternsBelow n) (hv : v.toNat < 2 ^ n)
    (i : Nat) : (t.write i v).patternsBelow n := by
  obtain ⟨hfill, hcells⟩ := h
  exact ⟨hfill, Table.forall_write hcells hv⟩

theorem Table.patternsBelow.read {t : Table History} {n : Nat} (h : t.patternsBelow n) (i : Nat) : (t.read i).toNat < 2 ^ n := by
  obtain ⟨hfill, hcells⟩ := h
  rcases Table.read_eq_fill_or_mem t i with hread | hmem
  · rw [hread]; exact hfill
  · exact hcells _ hmem

@[simp] theorem Table.filled_patternsBelow_iff {v : History} {n : Nat} :
    (Table.filled v).patternsBelow n ↔ v.toNat < 2 ^ n := by
  simp [Table.patternsBelow]

/-! ## The units -/

theorem tnTrainChooser_chooser (u : Tournament) (c : Ctx) (o : Bool) : (tnTrainChooser u c o).chooser = u.chooser ∨
    ∃ v, (tnTrainChooser u c o).chooser = u.chooser.write c.gidx.toNat v := by
  simp only [tnTrainChooser]
  split_ifs
  · exact .inr ⟨_, rfl⟩
  · exact .inr ⟨_, rfl⟩
  · exact .inl rfl

theorem bmTrainChooser_chooser (u : Bimode) (c : Ctx) (o : Bool) : (bmTrainChooser u c o).chooser = u.chooser ∨
    ∃ v, (bmTrainChooser u c o).chooser = u.chooser.write c.cidx.toNat v := by
  simp only [bmTrainChooser]
  split_ifs
  · exact .inr ⟨_, rfl⟩
  · exact .inr ⟨_, rfl⟩
  · exact .inl rfl

theorem gsTrain_inRange {u : Gshare} {n : Nat} {c : Ctx} (ht : u.table.within n) (hi : c.gidx.toNat < 2 ^ n) (o : Bool) :
    (gsTrain u n c o).table.within n ∧ (gsTrain u n c o).hist.toNat < 2 ^ n :=
  ⟨ht.write hi _, hshift_lt _ _ _⟩

theorem tnTrain_wf {u : Tournament} (h : u.glob.wf ∧ u.loc.wf ∧ u.lht.wf ∧ u.chooser.wf) (g l : Nat) (c : Ctx) (o : Bool) :
    (tnTrain u g l c o).glob.wf ∧ (tnTrain u g l c o).loc.wf ∧ (tnTrain u g l c o).lht.wf ∧ (tnTrain u g l c o).chooser.wf := by
  obtain ⟨hglob, hloc, hlht, hchooser⟩ := h
  rw [tnTrain_glob, tnTrain_loc, tnTrain_lht, tnTrain_chooser]
  refine ⟨Table.write_wf hglob _ _, Table.write_wf hloc _ _, Table.write_wf hlht _ _, ?_⟩
  rcases tnTrainChooser_chooser u c o with hc | ⟨v, hc⟩ <;> rw [hc]
  · exact hchooser
  · exact Table.write_wf hchooser _ _

/-- The local counter is trained at the shifted pattern, which is below `2^l` whatever the recorded local index is (R146). -/
theorem tnTrain_inRange {u : Tournament} {g l p : Nat} {c : Ctx}
    (h : u.glob.within g ∧ u.chooser.within g ∧ u.loc.within l ∧ u.lht.within p ∧ u.lht.patternsBelow l ∧ u.hist.toNat < 2 ^ g)
    (hg : c.gidx.toNat < 2 ^ g) (hp : c.pidx.toNat < 2 ^ p) (o : Bool) :
    (tnTrain u g l c o).glob.within g ∧ (tnTrain u g l c o).chooser.within g ∧ (tnTrain u g l c o).loc.within l ∧
    (tnTrain u g l c o).lht.within p ∧ (tnTrain u g l c o).lht.patternsBelow l ∧ (tnTrain u g l c o).hist.toNat < 2 ^ g := by
  obtain ⟨hglob, hchooser, hloc, hlht, hpat, -⟩ := h
  rw [tnTrain_glob, tnTrain_loc, tnTrain_lht, tnTrain_chooser, tnTrain_hist]
  refine ⟨hglob.write hg _, ?_, hloc.write (hshift_lt _ _ _) _, hlht.write hp _, hpat.write (hshift_lt _ _ _) _, hshift_lt _ _ _⟩
  rcases tnTrainChooser_chooser u c o with hc | ⟨v, hc⟩ <;> rw [hc]
  · exact hchooser
  · exact hchooser.write hg _

theorem bmTrain_wf {u : Bimode} (h : u.taken.wf ∧ u.notTaken.wf ∧ u.chooser.wf) (c : Ctx) (o : Bool) :
    (bmTrain u c o).taken.wf ∧ (bmTrain u c o).notTaken.wf ∧ (bmTrain u c o).chooser.wf := by
  obtain ⟨htaken, hnotTaken, hchooser⟩ := h
  rw [bmTrain_taken, bmTrain_notTaken, bmTrain_chooser]
  refine ⟨?_, ?_, ?_⟩
  · split_ifs
    · exact Table.write_wf htaken _ _
    · exact htaken
  · split_ifs
    · exact hnotTaken
    · exact Table.write_wf hnotTaken _ _
  · rcases bmTrainChooser_chooser u c o with hc | ⟨v, hc⟩ <;> rw [hc]
    · exact hchooser
    · exact Table.write_wf hchooser _ _

theorem bmTrain_inRange {u : Bimode} {c : Ctx}
    (h : u.taken.within 11 ∧ u.notTaken.within 11 ∧ u.chooser.within 11 ∧ u.hist.toNat < 2 ^ 11)
    (hd : c.didx.toNat < 2 ^ 11) (hc : c.cidx.toNat < 2 ^ 11) (o : Bool) :
    (bmTrain u c o).taken.within 11 ∧ (bmTrain u c o).notTaken.within 11 ∧ (bmTrain u c o).chooser.within 11 ∧
    (bmTrain u c o).hist.toNat < 2 ^ 11 := by
  obtain ⟨htaken, hnotTaken, hchooser, -⟩ := h
  rw [bmTrain_taken, bmTrain_notTaken, bmTrain_chooser, bmTrain_hist]
  refine ⟨?_, ?_, ?_, hshift_lt _ _ _⟩
  · split_ifs
    · exact htaken.write hd _
    · exact htaken
  · split_ifs
    · exact hnotTaken
    · exact hnotTaken.write hd _
  · rcases bmTrainChooser_chooser u c o with he | ⟨v, he⟩ <;> rw [he]
    · exact hchooser
    · exact hchooser.write hc _

/-! ## The routing to the active unit, mode by mode (R200) -/

section
variable {s : State}

theorem State.unitPredict_static (h : s.mode = .static) (pc : Pc) : s.unitPredict pc = staticPredict pc := by
  rw [State.unitPredict, h]

theorem State.unitPredict_gshare (h : s.mode = .gshare) (pc : Pc) : s.unitPredict pc = gsPredict s.gs s.widthG pc := by
  rw [State.unitPredict, h]

theorem State.unitPredict_tournament (h : s.mode = .tournament) (pc : Pc) :
    s.unitPredict pc = tnPredict s.tn s.widthG s.widthL s.widthP pc := by
  rw [State.unitPredict, h]

theorem State.unitPredict_bimode (h : s.mode = .bimode) (pc : Pc) : s.unitPredict pc = bmPredict s.bm pc := by
  rw [State.unitPredict, h]

theorem State.unitTrain_gshare (h : s.mode = .gshare) (c : Ctx) (o : Bool) :
    s.unitTrain c o = s.setGs (gsTrain s.gs s.widthG c o) := by
  rw [State.unitTrain, h]

theorem State.unitTrain_tournament (h : s.mode = .tournament) (c : Ctx) (o : Bool) :
    s.unitTrain c o = s.setTn (tnTrain s.tn s.widthG s.widthL c o) := by
  rw [State.unitTrain, h]

theorem State.unitTrain_bimode (h : s.mode = .bimode) (c : Ctx) (o : Bool) : s.unitTrain c o = s.setBm (bmTrain s.bm c o) := by
  rw [State.unitTrain, h]

end

/-! ## The parts of the invariant -/

section
variable {s : State}

/-- No unit is active: the case in which R24 has every configuration register 0. -/
abbrev State.noUnit (s : State) : Prop := s.mode = .unconfigured ∨ s.mode = .error ∨ s.mode = .static

theorem State.unitTrain_of_noUnit (h : s.noUnit) (c : Ctx) (o : Bool) : s.unitTrain c o = s := by
  rcases h with h | h | h <;> rw [State.unitTrain, h]
  rfl

theorem State.tablesWf.clearPcb (h : s.tablesWf) : s.clearPcb.tablesWf := by
  obtain ⟨-, hgs, htn, hbm⟩ := h
  exact ⟨Table.filled_wf _, hgs, htn, hbm⟩

theorem State.tablesWf.writeSlot (h : s.tablesWf) (k : Nat) (c : Ctx) : (s.writeSlot k c).tablesWf := by
  obtain ⟨hpcb, hgs, htn, hbm⟩ := h
  exact ⟨Table.write_wf hpcb k c, hgs, htn, hbm⟩

theorem State.tablesWf.unitTrain (h : s.tablesWf) (c : Ctx) (o : Bool) : (s.unitTrain c o).tablesWf := by
  obtain ⟨hpcb, hgs, htn, hbm⟩ := h
  cases hm : s.mode with
  | unconfigured => rw [State.unitTrain_of_noUnit (.inl hm)]; exact ⟨hpcb, hgs, htn, hbm⟩
  | error => rw [State.unitTrain_of_noUnit (.inr (.inl hm))]; exact ⟨hpcb, hgs, htn, hbm⟩
  | static => rw [State.unitTrain_of_noUnit (.inr (.inr hm))]; exact ⟨hpcb, hgs, htn, hbm⟩
  | gshare => rw [State.unitTrain_gshare hm]; exact ⟨hpcb, Table.write_wf hgs _ _, htn, hbm⟩
  | tournament => rw [State.unitTrain_tournament hm]; exact ⟨hpcb, hgs, tnTrain_wf htn _ _ c o, hbm⟩
  | bimode => rw [State.unitTrain_bimode hm]; exact ⟨hpcb, hgs, htn, bmTrain_wf hbm c o⟩

/-- Training with a context in range keeps the active unit in range (R35 b, c). -/
theorem State.unitInRange.unitTrain (h : s.unitInRange) {c : Ctx} (hc : s.ctxInRange c) (o : Bool) :
    (s.unitTrain c o).unitInRange := by
  obtain ⟨hgs, htn, hbm⟩ := h
  obtain ⟨-, hcgs, hctn, hcbm⟩ := hc
  refine ⟨fun hm => ?_, fun hm => ?_, fun hm => ?_⟩ <;> rw [State.unitTrain_mode] at hm
  · obtain ⟨htable, -⟩ := hgs hm
    obtain ⟨hg, -⟩ := hcgs hm
    rw [State.unitTrain_gshare hm]
    exact gsTrain_inRange htable hg o
  · obtain ⟨hg, hp, -⟩ := hctn hm
    rw [State.unitTrain_tournament hm]
    exact tnTrain_inRange (htn hm) hg hp o
  · obtain ⟨hd, hci, -⟩ := hcbm hm
    rw [State.unitTrain_bimode hm]
    exact bmTrain_inRange (hbm hm) hd hci o

/-- What PREDICT records is in range: every index is masked to its table's width (R121, R141, R171). -/
theorem State.ctxInRange_unitPredict (s : State) (pc : Pc) :
    s.ctxInRange { (s.unitPredict pc).2 with valid := true, pc := pc } := by
  refine ⟨fun hm => ?_, fun hm => ?_, fun hm => ?_, fun hm => ?_⟩
  · rw [State.unitPredict_static hm]; rfl
  · rw [State.unitPredict_gshare hm]; exact ⟨toNat_and_mask_lt _ _, rfl⟩
  · rw [State.unitPredict_tournament hm]
    exact ⟨toNat_and_mask_lt _ _, toNat_and_mask_lt _ _, toNat_and_mask_lt _ _, rfl⟩
  · rw [State.unitPredict_bimode hm]; exact ⟨toNat_and_mask_lt _ _, toNat_and_mask_lt _ _, rfl⟩

theorem State.pcbInRange_of_cleared (h : s.pcb = Table.filled Ctx.zero) : s.pcbInRange := by
  rw [State.pcbInRange, h]; exact ⟨rfl, by simp⟩

/-- Every slot is all-zero, or a slot of the buffer that holds an outstanding prediction of the mode. -/
theorem State.pcbInRange.slot_cases (h : s.pcbInRange) (k : Nat) : s.slot k = Ctx.zero ∨
    k < s.params.nslot ∧ s.mode.refusal = none ∧ (s.slot k).valid = true ∧ s.ctxInRange (s.slot k) := by
  obtain ⟨hfill, hcells⟩ := h
  exact (Table.read_eq_fill_or_mem s.pcb k).imp (fun hread => hread.trans hfill) (hcells _)

theorem State.pcbInRange.slot_of_valid (h : s.pcbInRange) {k : Nat} (hv : (s.slot k).valid = true) :
    k < s.params.nslot ∧ s.ctxInRange (s.slot k) := by
  rcases h.slot_cases k with hz | ⟨hk, -, -, hc⟩
  · rw [hz] at hv; cases hv
  · exact ⟨hk, hc⟩

end

/-! ## The invariant over the updates -/

section
variable {s : State}

theorem State.Inv.respondWith (h : s.Inv) (st : Status) (taken : Bool) (tag : Tag) : (s.respondWith st taken tag).Inv :=
  ⟨h.params, h.cfg, h.tables, h.unit, h.pcb⟩

theorem State.Inv.respond (h : s.Inv) (st : Status) : (s.respond st).Inv := h.respondWith st false 0

theorem State.Inv.dequeue (h : s.Inv) (rest : List Request) : (s.dequeue rest).Inv :=
  ⟨h.params, h.cfg, h.tables, h.unit, h.pcb⟩

/-- With no unit active and no prediction outstanding, the zero configuration registers and canonical tables are all there is to
the invariant. -/
theorem State.Inv.of_noUnit (hparams : s.params.legal) (hm : s.noUnit) (hcfg : s.cfgG = 0 ∧ s.cfgL = 0 ∧ s.cfgP = 0)
    (htables : s.tablesWf) (hpcb : s.pcb = Table.filled Ctx.zero) : s.Inv where
  params := hparams
  cfg := by
    refine ⟨fun _ => hcfg, ?_, ?_, ?_⟩ <;> intro hm' <;> simp [State.noUnit, hm'] at hm
  tables := htables
  unit := by
    refine ⟨?_, ?_, ?_⟩ <;> intro hm' <;> simp [State.noUnit, hm'] at hm
  pcb := State.pcbInRange_of_cleared hpcb

theorem State.Inv.initStatic (h : s.Inv) : (s.clearPcb.configure .static 0 0 0).Inv :=
  .of_noUnit h.params (.inr (.inr rfl)) ⟨rfl, rfl, rfl⟩ h.tables.clearPcb rfl

theorem State.Inv.initFail (h : s.Inv) : s.clearPcb.initFail.Inv :=
  .of_noUnit h.params (.inr (.inl rfl)) ⟨rfl, rfl, rfl⟩ h.tables.clearPcb rfl

theorem State.Inv.initGshare (h : s.Inv) {g : Width} (hg : validW s.params g = true) :
    ((s.clearPcb.configure .gshare g 0 0).setGs gsInit).Inv where
  params := h.params
  cfg := by simp [State.cfgAsMode, hg]
  tables := by
    obtain ⟨-, -, htn, hbm⟩ := h.tables
    exact ⟨Table.filled_wf _, Table.filled_wf _, htn, hbm⟩
  unit := by simp [State.unitInRange, gsInit]
  pcb := State.pcbInRange_of_cleared rfl

theorem State.Inv.initTournament (h : s.Inv) {g l p : Width} (hg : validW s.params g = true) (hl : validW s.params l = true)
    (hp : validW s.params p = true) : ((s.clearPcb.configure .tournament g l p).setTn (tnInit s.params)).Inv where
  params := h.params
  cfg := by simp [State.cfgAsMode, hg, hl, hp]
  tables := by
    obtain ⟨-, hgs, -, hbm⟩ := h.tables
    exact ⟨Table.filled_wf _, hgs, ⟨Table.filled_wf _, Table.filled_wf _, Table.filled_wf _, Table.filled_wf _⟩, hbm⟩
  unit := by simp [State.unitInRange, tnInit]
  pcb := State.pcbInRange_of_cleared rfl

theorem State.Inv.initBimode (h : s.Inv) : ((s.clearPcb.configure .bimode 11 0 11).setBm (bmInit s.params)).Inv where
  params := h.params
  cfg := by simp [State.cfgAsMode]
  tables := by
    obtain ⟨-, hgs, htn, -⟩ := h.tables
    exact ⟨Table.filled_wf _, hgs, htn, ⟨Table.filled_wf _, Table.filled_wf _, Table.filled_wf _⟩⟩
  unit := by simp [State.unitInRange, bmInit]
  pcb := State.pcbInRange_of_cleared rfl

/-- A context in range may be recorded in a slot of the buffer while a scheme is active. -/
theorem State.Inv.recordCtx (h : s.Inv) {k : Nat} {c : Ctx} (hk : k < s.params.nslot) (hm : s.mode.refusal = none)
    (hv : c.valid = true) (hc : s.ctxInRange c) : (s.writeSlot k c).Inv where
  params := h.params
  cfg := h.cfg
  tables := h.tables.writeSlot k c
  unit := h.unit
  pcb := by
    obtain ⟨hfill, hcells⟩ := h.pcb
    exact ⟨hfill, Table.forall_write hcells ⟨hk, hm, hv, hc⟩⟩

theorem State.Inv.clearSlot (h : s.Inv) (k : Nat) : (s.writeSlot k Ctx.zero).Inv where
  params := h.params
  cfg := h.cfg
  tables := h.tables.writeSlot k Ctx.zero
  unit := h.unit
  pcb := by
    obtain ⟨hfill, hcells⟩ := h.pcb
    exact ⟨hfill, Table.forall_write_fill hcells hfill.symm⟩

theorem State.Inv.unitTrain (h : s.Inv) {c : Ctx} (hc : s.ctxInRange c) (o : Bool) : (s.unitTrain c o).Inv where
  params := by rw [State.unitTrain_params]; exact h.params
  cfg := by simpa [State.cfgAsMode] using h.cfg
  tables := h.tables.unitTrain c o
  unit := h.unit.unitTrain hc o
  pcb := by simpa [State.pcbInRange, State.ctxInRange, State.widthG, State.widthL, State.widthP] using h.pcb

theorem State.Inv.afterPredict (h : s.Inv) (pc : Pc) {k : Nat} (hm : s.mode.refusal = none) (hk : s.freeSlot = some k) :
    (s.afterPredict pc k).Inv := by
  obtain ⟨hlt, -, -⟩ := State.freeSlot_eq_some.1 hk
  exact (h.recordCtx hlt hm rfl (s.ctxInRange_unitPredict pc)).respondWith _ _ _

theorem State.Inv.afterTrain (h : s.Inv) {tag : Tag} {pc : Pc} (hm : s.slotMatches tag pc = true) (o : Bool) :
    (s.afterTrain o tag).Inv := by
  obtain ⟨-, hv, -⟩ := State.slotMatches_iff.1 hm
  obtain ⟨-, hc⟩ := h.pcb.slot_of_valid hv
  exact ((h.unitTrain hc o).clearSlot tag.toNat).respond .ok

end

end Sys2Proof.Machine
end

section
/-! The obligations on the state's invariant and on who writes the configuration (spec R23, R24, R33, R35). -/

namespace Sys2Proof.Machine

/-- What holds of the state a command is known to answer holds of every state it answers: it answers only one. -/
theorem of_exec_eq_next {i : Instr} {s t : State} {P : State → Prop} (h : ∃ u, exec i s = .next u ∧ P u)
    (ht : exec i s = .next t) : P t := by
  obtain ⟨u, hu, hP⟩ := h
  cases hu.symm.trans ht
  exact hP

/-- Every command keeps the invariant. -/
theorem exec_keeps_inv {s : State} (h : s.Inv) (i : Instr) : ∃ t, exec i s = .next t ∧ t.Inv :=
  exec_elim s (motive := fun _ t => t.Inv) (i := i)
    (away := fun _ st _ => h.respond st)
    (nop := h.respond .ok)
    (static := fun _ _ _ => h.initStatic.respond .ok)
    (gshare := fun _ _ _ hg => (h.initGshare hg).respond .ok)
    (tournament := fun _ _ _ hg hl hp => (h.initTournament hg hl hp).respond .ok)
    (bimode := fun _ _ _ => h.initBimode.respond .ok)
    (fail := fun _ _ => h.initFail)
    (predict := fun pc _ hm hk => h.afterPredict pc hm hk)
    (train := fun o _ _ _ hm => h.afterTrain hm o)

/-- Settles O44: an idle step keeps the state, and any other runs a command. -/
theorem everyStepKeepsTheInvariant : Obligations.EveryStepKeepsTheInvariant := by
  intro s t h hstep
  cases hp : s.pending with
  | nil =>
    rw [step, hp] at hstep
    cases hstep
    exact h
  | cons w rest =>
    rw [step_of_pending_cons hp] at hstep
    exact of_exec_eq_next (exec_keeps_inv (h.dequeue rest) _) hstep

theorem exec_keeps_params (s : State) (i : Instr) : ∃ t, exec i s = .next t ∧ t.params = s.params :=
  exec_elim s (motive := fun _ t => t.params = s.params) (i := i)
    (away := fun _ _ _ => rfl) (nop := rfl) (static := fun _ _ _ => rfl) (gshare := fun _ _ _ _ => rfl)
    (tournament := fun _ _ _ _ _ _ => rfl) (bimode := fun _ _ _ => rfl) (fail := fun _ _ => rfl)
    (predict := fun _ _ _ _ => rfl) (train := fun _ _ _ _ _ => by simp)

/-- MODE and the configuration registers of `t` are those of `s`. -/
abbrev State.sameConfiguration (s t : State) : Prop :=
  t.mode = s.mode ∧ t.cfgG = s.cfgG ∧ t.cfgL = s.cfgL ∧ t.cfgP = s.cfgP

theorem initRow_not_nop_predict_train : ∀ r ∈ [rowInitStatic, rowInitGshare, rowInitTournament, rowInitBimode, rowInitInvalid],
    r ∉ [rowNop, rowPredict, rowTrain] := by decide

/-- Of the cases of `exec_elim`, those that write the configuration are commands of an INIT row. -/
theorem exec_keeps_configuration (s : State) (i : Instr) :
    ∃ t, exec i s = .next t ∧ (rowOf i ∈ [rowNop, rowPredict, rowTrain] → s.sameConfiguration t) := by
  have init {i : Instr} {P : Prop}
      (hi : rowOf i ∈ [rowInitStatic, rowInitGshare, rowInitTournament, rowInitBimode, rowInitInvalid])
      (h : rowOf i ∈ [rowNop, rowPredict, rowTrain]) : P := absurd h (initRow_not_nop_predict_train _ hi)
  refine exec_elim s (motive := fun i t => rowOf i ∈ [rowNop, rowPredict, rowTrain] → s.sameConfiguration t)
    ?away ?nop ?static ?gshare ?tournament ?bimode ?fail ?predict ?train i
  case away => exact fun _ _ _ _ => ⟨rfl, rfl, rfl, rfl⟩
  case nop => exact fun _ => ⟨rfl, rfl, rfl, rfl⟩
  case static => exact fun _ _ _ => init (by simp [rowOf])
  case gshare => exact fun _ _ _ _ => init (by simp [rowOf])
  case tournament => exact fun _ _ _ _ _ _ => init (by simp [rowOf])
  case bimode => exact fun _ _ _ => init (by simp [rowOf])
  case fail =>
    intro i hi
    refine init ?_
    simp only [List.mem_cons] at hi ⊢
    tauto
  case predict => exact fun _ _ _ _ _ => ⟨rfl, rfl, rfl, rfl⟩
  case train => exact fun _ _ _ _ _ _ => by simp [State.sameConfiguration]

/-- Settles O38: the two frames above, for the one state the command answers. -/
theorem onlyInitWritesTheConfiguration : Obligations.OnlyInitWritesTheConfiguration := fun i s _ ht =>
  ⟨of_exec_eq_next (exec_keeps_params s i) ht, of_exec_eq_next (exec_keeps_configuration s i) ht⟩

/-- Settles O45: the parts of the invariant, read through the tables. -/
theorem invariantBoundsEveryRead : Obligations.InvariantBoundsEveryRead := by
  intro s h
  obtain ⟨-, -, -, hcfgBimode⟩ := h.cfg
  obtain ⟨hgs, htn, hbm⟩ := h.unit
  refine ⟨fun hm => ?gshare, fun hm => ?tournament, fun hm => ?bimode, fun k hv => ?valid, fun k hv => ?invalid,
    fun hm k => ?noScheme⟩
  case gshare =>
    obtain ⟨-, hhist⟩ := hgs hm
    exact hhist
  case tournament =>
    obtain ⟨-, -, -, -, hpat, hhist⟩ := htn hm
    exact ⟨hhist, hpat.read⟩
  case bimode =>
    obtain ⟨-, -, -, hhist⟩ := hbm hm
    obtain ⟨hg, -, hp⟩ := hcfgBimode hm
    exact ⟨hhist, by rw [State.widthG, hg]; rfl, by rw [State.widthP, hp]; rfl⟩
  case valid =>
    obtain ⟨hk, -, hcgs, hctn, hcbm⟩ := h.pcb.slot_of_valid hv
    refine ⟨hk, fun hm => ?_, fun hm => ?_, fun hm => ?_⟩
    · obtain ⟨hg, -⟩ := hcgs hm
      exact hg
    · obtain ⟨hg, hp, hl, -⟩ := hctn hm
      exact ⟨hg, hp, hl⟩
    · obtain ⟨hd, hc, -⟩ := hcbm hm
      exact ⟨hd, hc⟩
  case invalid =>
    rcases h.pcb.slot_cases k with hz | ⟨-, -, hvalid, -⟩
    · exact hz
    · rw [hv] at hvalid; cases hvalid
  case noScheme =>
    rcases h.pcb.slot_cases k with hz | ⟨-, hnone, -⟩
    · exact hz
    · rw [Mode.refusal_eq_none_iff] at hnone
      tauto

/-- Settles O43: after reset no unit is active, no prediction is outstanding and every table lists nothing. -/
theorem resetMeetsTheInvariant : Obligations.ResetMeetsTheInvariant := fun p reqs hp =>
  .of_noUnit (s := { State.resetWith p with pending := reqs }) hp (.inl rfl) ⟨rfl, rfl, rfl⟩
    ⟨Table.filled_wf _, Table.filled_wf _,
      ⟨Table.filled_wf _, Table.filled_wf _, Table.filled_wf _, Table.filled_wf _⟩,
      ⟨Table.filled_wf _, Table.filled_wf _, Table.filled_wf _⟩⟩
    rfl

end Sys2Proof.Machine
end

section
/-! Who writes the units, and what each command does to the prediction-context buffer (spec R32, R33, R56). -/

namespace Sys2Proof.Machine

/-! ## The units -/

/-- The training of R200 reaches the unit of the mode and no other. -/
theorem State.unitTrain_writes_active_unit (s : State) (c : Ctx) (o : Bool) :
    ((s.unitTrain c o).gs = s.gs ∨ s.mode = .gshare) ∧
    ((s.unitTrain c o).tn = s.tn ∨ s.mode = .tournament) ∧
    ((s.unitTrain c o).bm = s.bm ∨ s.mode = .bimode) := by
  cases hm : s.mode with
  | unconfigured => rw [State.unitTrain_of_noUnit (.inl hm)]; exact ⟨.inl rfl, .inl rfl, .inl rfl⟩
  | error => rw [State.unitTrain_of_noUnit (.inr (.inl hm))]; exact ⟨.inl rfl, .inl rfl, .inl rfl⟩
  | static => rw [State.unitTrain_of_noUnit (.inr (.inr hm))]; exact ⟨.inl rfl, .inl rfl, .inl rfl⟩
  | gshare => rw [State.unitTrain_gshare hm]; exact ⟨.inr rfl, .inl rfl, .inl rfl⟩
  | tournament => rw [State.unitTrain_tournament hm]; exact ⟨.inl rfl, .inr rfl, .inl rfl⟩
  | bimode => rw [State.unitTrain_bimode hm]; exact ⟨.inl rfl, .inl rfl, .inr rfl⟩

/-- Each unit of `t` is that of `s`, or `i` is the unit's INIT, or a TRAIN in the unit's mode. -/
abbrev State.unitsWrittenByOwner (s : State) (i : Instr) (t : State) : Prop :=
  (t.gs = s.gs ∨ rowOf i = rowInitGshare ∨ rowOf i = rowTrain ∧ s.mode = .gshare) ∧
  (t.tn = s.tn ∨ rowOf i = rowInitTournament ∨ rowOf i = rowTrain ∧ s.mode = .tournament) ∧
  (t.bm = s.bm ∨ rowOf i = rowInitBimode ∨ rowOf i = rowTrain ∧ s.mode = .bimode)

theorem exec_writes_units_by_owner (s : State) (i : Instr) : ∃ t, exec i s = .next t ∧ s.unitsWrittenByOwner i t := by
  refine exec_elim s (motive := s.unitsWrittenByOwner) ?away ?nop ?static ?gshare ?tournament ?bimode ?fail ?predict ?train i
  case away => exact fun _ _ _ => ⟨.inl rfl, .inl rfl, .inl rfl⟩
  case nop => exact ⟨.inl rfl, .inl rfl, .inl rfl⟩
  case static => exact fun _ _ _ => ⟨.inl rfl, .inl rfl, .inl rfl⟩
  case gshare => exact fun _ _ _ _ => ⟨.inr (.inl rfl), .inl rfl, .inl rfl⟩
  case tournament => exact fun _ _ _ _ _ _ => ⟨.inl rfl, .inr (.inl rfl), .inl rfl⟩
  case bimode => exact fun _ _ _ => ⟨.inl rfl, .inl rfl, .inr (.inl rfl)⟩
  case fail => exact fun _ _ => ⟨.inl rfl, .inl rfl, .inl rfl⟩
  case predict => exact fun _ _ _ _ => ⟨.inl rfl, .inl rfl, .inl rfl⟩
  case train =>
    intro o tag pc _ _
    obtain ⟨hgs, htn, hbm⟩ := s.unitTrain_writes_active_unit (s.slot tag.toNat) o
    exact ⟨hgs.imp_right fun hm => .inr ⟨rfl, hm⟩, htn.imp_right fun hm => .inr ⟨rfl, hm⟩,
      hbm.imp_right fun hm => .inr ⟨rfl, hm⟩⟩

/-- Settles O39: a unit that changed is not the unit it was, so its owner wrote it. -/
theorem eachUnitIsWrittenByItsOwnCommands : Obligations.EachUnitIsWrittenByItsOwnCommands := by
  intro i s t ht
  obtain ⟨hgs, htn, hbm⟩ := of_exec_eq_next (exec_writes_units_by_owner s i) ht
  exact ⟨hgs.resolve_left, htn.resolve_left, hbm.resolve_left⟩

/-! ## The prediction-context buffer -/

/-- The buffers that the command `i` can leave in the state `s`: an INIT clears every slot (R206), a PREDICT records in the free
slot (R208), a TRAIN frees the slot of its tag (R210), and every command may leave the buffer as it was. -/
inductive State.PcbAfter (s : State) : Instr → Table Ctx → Prop
  | kept (i : Instr) : s.PcbAfter i s.pcb
  | cleared {i : Instr} (hi : rowOf i ∉ [rowNop, rowPredict, rowTrain]) : s.PcbAfter i (Table.filled Ctx.zero)
  | recorded (pc : Pc) (c : Ctx) {k : Nat} (hk : s.freeSlot = some k) : s.PcbAfter (.predict pc 0) (s.pcb.write k c)
  | freed (o : Bool) (tag : Tag) (pc : Pc) : s.PcbAfter (.train o tag pc 0 0) (s.pcb.write tag.toNat Ctx.zero)

theorem exec_pcbAfter (s : State) (i : Instr) : ∃ t, exec i s = .next t ∧ s.PcbAfter i t.pcb := by
  have init {i : Instr} (hi : rowOf i ∈ [rowInitStatic, rowInitGshare, rowInitTournament, rowInitBimode, rowInitInvalid]) :
      s.PcbAfter i (Table.filled Ctx.zero) := .cleared (initRow_not_nop_predict_train _ hi)
  refine exec_elim s (motive := fun i t => s.PcbAfter i t.pcb)
    ?away ?nop ?static ?gshare ?tournament ?bimode ?fail ?predict ?train i
  case away => exact fun i _ _ => .kept i
  case nop => exact .kept _
  case static => exact fun _ _ _ => init (by simp [rowOf])
  case gshare => exact fun _ _ _ _ => init (by simp [rowOf])
  case tournament => exact fun _ _ _ _ _ _ => init (by simp [rowOf])
  case bimode => exact fun _ _ _ => init (by simp [rowOf])
  case fail =>
    intro i hi
    refine init ?_
    simp only [List.mem_cons] at hi ⊢
    tauto
  case predict => exact fun pc _ _ hk => .recorded pc _ hk
  case train =>
    intro o tag pc _ _
    simpa using State.PcbAfter.freed o tag pc

section
variable {s : State} {b : Table Ctx}

theorem State.PcbAfter.eq_of_nop {resv : BitVec 62} (h : s.PcbAfter (.nop resv) b) : b = s.pcb := by
  cases h with
  | kept => rfl
  | cleared hi => exact absurd (by simp [rowOf]) hi

theorem State.PcbAfter.read_of_predict {pc : Pc} {resv : BitVec 30} {j : Nat} (h : s.PcbAfter (.predict pc resv) b)
    (hj : s.freeSlot ≠ some j) : b.read j = s.slot j := by
  cases h with
  | kept => rfl
  | cleared hi => exact absurd (by simp [rowOf]) hi
  | recorded _ c hk => exact Table.read_write_ne s.pcb c fun hjk => hj (hjk ▸ hk)

theorem State.PcbAfter.read_of_train {o : Bool} {tag : Tag} {pc : Pc} {lo : BitVec 5} {hi : BitVec 16} {j : Nat}
    (h : s.PcbAfter (.train o tag pc lo hi) b) (hj : tag.toNat ≠ j) : b.read j = s.slot j := by
  cases h with
  | kept => rfl
  | cleared hi => exact absurd (by simp [rowOf]) hi
  | freed => exact Table.read_write_ne s.pcb Ctx.zero hj.symm

end

/-- Settles O40: of the buffers a command can leave, those of NOP, PREDICT and TRAIN. The canonical form of the tables is not
needed, for no clause reads the slot that is written. -/
theorem predictAndTrainWriteOneSlot : Obligations.PredictAndTrainWriteOneSlot := by
  intro s t j _
  refine ⟨fun resv ht => ?nop, fun pc resv ht hj => ?predict, fun o tag pc lo hi ht hj => ?train⟩
  case nop => exact (of_exec_eq_next (exec_pcbAfter s _) ht).eq_of_nop
  case predict => exact (of_exec_eq_next (exec_pcbAfter s _) ht).read_of_predict hj
  case train => exact (of_exec_eq_next (exec_pcbAfter s _) ht).read_of_train hj

end Sys2Proof.Machine
end

section
/-! Decoding and encoding, each way round (spec R70 to R78): what a word of each `cmd` decodes to, an INIT command as a function of
its scheme code, the two round trips, and the words of the spec. -/

namespace Sys2Proof

/-- A field holds the value whose number is the quotient and remainder of the field's place. -/
theorem field_eq {n lo len : Nat} {w : BitVec n} {x : BitVec len} (h : w.toNat / 2 ^ lo % 2 ^ len = x.toNat) :
    w.extractLsb' lo len = x :=
  BitVec.eq_of_toNat_eq ((toNat_field w lo len).trans h)

theorem bit_eq {n i : Nat} {w : BitVec n} {b : Bool} (h : w.toNat / 2 ^ i % 2 = b.toNat) : w.getLsbD i = b := by
  rw [← toNat_getLsbD] at h
  generalize w.getLsbD i = b' at h
  revert b b'
  decide

/-- The INIT command of a scheme code (R72, R80). -/
def initOf (c : BitVec 3) (g l p : Width) (resv : BitVec 41) : Instr :=
  if c = 0 then .initStatic g l p resv
  else if c = 1 then .initGshare g l p resv
  else if c = 2 then .initTournament g l p resv
  else if c = 3 then .initBimode g l p resv
  else .initInvalid c g l p resv

section
variable {w : Request}

/-- `cmd` is the remainder modulo 4 (R71). -/
theorem cmd_eq {c : BitVec 2} (h : w.toNat % 4 = c.toNat) : w.extractLsb' 0 2 = c :=
  field_eq (by simpa using h)

theorem decode_nop (h : w.toNat % 4 = 0) : decode w = .nop (w.extractLsb' 2 62) := by
  simp [decode, cmd_eq (c := 0) h]

theorem decode_init (h : w.toNat % 4 = 1) : decode w =
    initOf (w.extractLsb' 2 3) (w.extractLsb' 5 6) (w.extractLsb' 11 6) (w.extractLsb' 17 6) (w.extractLsb' 23 41) := by
  simp [decode, cmd_eq (c := 1) h, decodeInit, initOf]

theorem decode_predict (h : w.toNat % 4 = 2) : decode w = .predict (w.extractLsb' 32 32) (w.extractLsb' 2 30) := by
  simp [decode, cmd_eq (c := 2) h]

theorem decode_train (h : w.toNat % 4 = 3) : decode w =
    .train (w.getLsbD 2) (w.extractLsb' 8 8) (w.extractLsb' 32 32) (w.extractLsb' 3 5) (w.extractLsb' 16 16) := by
  simp [decode, cmd_eq (c := 3) h]

end

section
variable (c : BitVec 3) (g l p : Width) (resv : BitVec 41)

/-- Every scheme code from 4 is INIT.INVALID (R80). -/
theorem initOf_invalid {c : BitVec 3} (h : 4 ≤ c.toNat) : initOf c g l p resv = .initInvalid c g l p resv := by
  have hne {d : BitVec 3} (hd : d.toNat < 4) : c ≠ d := by rintro rfl; omega
  rw [initOf, if_neg (hne (by decide)), if_neg (hne (by decide)), if_neg (hne (by decide)), if_neg (hne (by decide))]

/-- A scheme code is one of the four names or from 4 on. -/
theorem scheme_cases : c = 0 ∨ c = 1 ∨ c = 2 ∨ c = 3 ∨ 4 ≤ c.toNat := by
  revert c
  decide

@[simp] theorem encode_initOf : encode (initOf c g l p resv) = encodeInit c g l p resv := by
  rcases scheme_cases c with rfl | rfl | rfl | rfl | h
  · rfl
  · rfl
  · rfl
  · rfl
  · rw [initOf_invalid g l p resv h]; rfl

@[simp] theorem wf_initOf : (initOf c g l p resv).wf = true := by
  rcases scheme_cases c with rfl | rfl | rfl | rfl | h
  · rfl
  · rfl
  · rfl
  · rfl
  · rw [initOf_invalid g l p resv h]; simpa [Instr.wf] using h

theorem decode_encodeInit : decode (encodeInit c g l p resv) = initOf c g l p resv := by
  have hw := toNat_encodeInit c g l p resv
  rw [decode_init (by omega)]
  congr 1 <;> exact field_eq (by omega)

end

theorem decode_encode_nop (resv : BitVec 62) : decode (encode (.nop resv)) = .nop resv := by
  have hw := toNat_encode_nop resv
  rw [decode_nop (by omega)]
  congr 1
  exact field_eq (by omega)

theorem decode_encode_predict (pc : Pc) (resv : BitVec 30) : decode (encode (.predict pc resv)) = .predict pc resv := by
  have hw := toNat_encode_predict pc resv
  rw [decode_predict (by omega)]
  congr 1 <;> exact field_eq (by omega)

theorem decode_encode_train (o : Bool) (tag : Tag) (pc : Pc) (lo : BitVec 5) (hi : BitVec 16) :
    decode (encode (.train o tag pc lo hi)) = .train o tag pc lo hi := by
  have hw := toNat_encode_train o tag pc lo hi
  have hlt := o.toNat_lt
  rw [decode_train (by omega)]
  congr 1
  · exact bit_eq (by omega)
  all_goals exact field_eq (by omega)

/-- Settles O3: constructor by constructor; each INIT is the one of its scheme code. -/
theorem decodeOfEncodeIsIdentity : Obligations.DecodeOfEncodeIsIdentity := by
  intro i hwf
  cases i with
  | nop resv => exact decode_encode_nop resv
  | initStatic g l p resv => exact decode_encodeInit 0 g l p resv
  | initGshare g l p resv => exact decode_encodeInit 1 g l p resv
  | initTournament g l p resv => exact decode_encodeInit 2 g l p resv
  | initBimode g l p resv => exact decode_encodeInit 3 g l p resv
  | initInvalid c g l p resv =>
    have hc : 4 ≤ c.toNat := by simpa [Instr.wf] using hwf
    exact (decode_encodeInit c g l p resv).trans (initOf_invalid g l p resv hc)
  | predict pc resv => exact decode_encode_predict pc resv
  | train o tag pc lo hi => exact decode_encode_train o tag pc lo hi

theorem cmd_cases (w : Request) : w.toNat % 4 = 0 ∨ w.toNat % 4 = 1 ∨ w.toNat % 4 = 2 ∨ w.toNat % 4 = 3 := by omega

/-- Settles O4: for each `cmd`, the fields of the format leave no bit of the word out. -/
theorem encodeOfDecodeIsIdentity : Obligations.EncodeOfDecodeIsIdentity := by
  intro w
  apply BitVec.eq_of_toNat_eq
  rcases cmd_cases w with h | h | h | h
  · rw [decode_nop h, toNat_encode_nop, toNat_field]; omega
  · rw [decode_init h, encode_initOf, toNat_encodeInit]; simp only [toNat_field]; omega
  · rw [decode_predict h, toNat_encode_predict]; simp only [toNat_field]; omega
  · rw [decode_train h, toNat_encode_train]; simp only [toNat_field, toNat_getLsbD]; omega

/-- Settles O1: fixed words, each decoded by evaluation. -/
theorem specWordsDecodeToTheirCommands : Obligations.SpecWordsDecodeToTheirCommands := by
  unfold Obligations.SpecWordsDecodeToTheirCommands
  decide

end Sys2Proof
end

section
/-! What the opcode map says of every word (spec R71, R77 to R79): its one row, the numbers of its fields, and its reserved bits. -/

namespace Sys2Proof

/-! ## The rows -/

theorem wf_decode (w : Request) : (decode w).wf = true := by
  rcases cmd_cases w with h | h | h | h
  · rw [decode_nop h]; rfl
  · rw [decode_init h]; exact wf_initOf _ _ _ _ _
  · rw [decode_predict h]; rfl
  · rw [decode_train h]; rfl

theorem rowOf_mem_opcodeTable (i : Instr) : rowOf i ∈ opcodeTable := by
  cases i <;> simp [rowOf, opcodeTable]

theorem rowOf_matches_encode (i : Instr) : Laws.RowMatch.Statement i := by
  cases i with
  | nop => exact Laws.RowMatch.nop _
  | initStatic => exact Laws.RowMatch.initStatic _ _ _ _
  | initGshare => exact Laws.RowMatch.initGshare _ _ _ _
  | initTournament => exact Laws.RowMatch.initTournament _ _ _ _
  | initBimode => exact Laws.RowMatch.initBimode _ _ _ _
  | initInvalid => exact Laws.RowMatch.initInvalid _ _ _ _ _
  | predict => exact Laws.RowMatch.predict _ _
  | train => exact Laws.RowMatch.train _ _ _ _ _

theorem rowOf_decode_matches (w : Request) : (rowOf (decode w)).matchesWord w = true := by
  have h := rowOf_matches_encode (decode w) (wf_decode w)
  rwa [encodeOfDecodeIsIdentity w] at h

/-- The two rows want different values of a bit that both look at. -/
abbrev OpcodeRow.Conflicts (r q : OpcodeRow) : Prop := r.pattern &&& q.mask ≠ q.pattern &&& r.mask

theorem opcodeTable_conflicts : opcodeTable.Pairwise OpcodeRow.Conflicts := by decide

/-- No word is of two rows in conflict: under both masks it would be both patterns. -/
theorem OpcodeRow.Conflicts.not_both {r q : OpcodeRow} (h : r.Conflicts q) {w : Request} (hr : r.matchesWord w = true) :
    q.matchesWord w = false := by
  rw [← Bool.not_eq_true]
  intro hq
  rw [OpcodeRow.matchesWord, beq_iff_eq] at hr hq
  apply h
  rw [← hr, ← hq, BitVec.and_assoc, BitVec.and_assoc, BitVec.and_comm r.mask]

/-- In a list of rows in conflict with each other, a word that is of one row is of that row only. -/
theorem filter_matchesWord {rows : List OpcodeRow} (h : rows.Pairwise OpcodeRow.Conflicts) {r : OpcodeRow} (hr : r ∈ rows)
    {w : Request} (hw : r.matchesWord w = true) : rows.filter (fun q => q.matchesWord w) = [r] := by
  induction rows with
  | nil => simp at hr
  | cons q rest ih =>
    obtain ⟨hq, hrest⟩ := List.pairwise_cons.1 h
    rcases List.mem_cons.1 hr with rfl | hmem
    · have hnone : rest.filter (OpcodeRow.matchesWord · w) = [] :=
        List.filter_eq_nil_iff.2 fun p hp => by simp [(hq p hp).not_both hw]
      rw [List.filter_cons_of_pos (p := (OpcodeRow.matchesWord · w)) hw, hnone]
    · have hqw : q.matchesWord w ≠ true := fun hqw => by simp [(hq r hmem).not_both hqw] at hw
      rw [List.filter_cons_of_neg (p := (OpcodeRow.matchesWord · w)) hqw, ih hrest hmem]

/-- Settles O2: the decoded command's row matches, and the rows are in conflict with each other. -/
theorem everyWordMatchesExactlyOneRow : Obligations.EveryWordMatchesExactlyOneRow :=
  ⟨rfl, fun w => ⟨wf_decode w, filter_matchesWord opcodeTable_conflicts (rowOf_mem_opcodeTable _) (rowOf_decode_matches w)⟩⟩

/-! ## The fields -/

/-- A field that ends at the top bit is what is left above its low end. -/
theorem toNat_topField {n lo len : Nat} (w : BitVec n) (h : n = lo + len) :
    (w.extractLsb' lo len).toNat = w.toNat / 2 ^ lo := by
  subst h
  rw [toNat_field, Nat.mod_eq_of_lt]
  exact Nat.div_lt_of_lt_mul (by rw [← Nat.pow_add]; exact w.isLt)

/-- Settles O5: each field is the quotient and remainder of its place. -/
theorem fieldsAreTheNumbersTheirBitsAre : Obligations.FieldsAreTheNumbersTheirBitsAre := by
  intro w
  refine ⟨fun h => ?nop, fun h => ?init, fun h => ?predict, fun h => ?train⟩
  case nop => exact ⟨_, decode_nop h, toNat_topField w rfl⟩
  case init =>
    have scheme {c : BitVec 3} (hc : w.toNat / 4 % 8 = c.toNat) : w.extractLsb' 2 3 = c := field_eq hc
    refine ⟨_, _, _, _, ⟨toNat_field w 5 6, toNat_field w 11 6, toNat_field w 17 6, toNat_topField (len := 41) w rfl⟩, ?_⟩
    rw [decode_init h]
    refine ⟨fun hc => ?_, fun hc => ?_, fun hc => ?_, fun hc => ?_, fun hc => ⟨_, toNat_field w 2 3, ?_⟩⟩
    · rw [scheme (c := 0) hc]; rfl
    · rw [scheme (c := 1) hc]; rfl
    · rw [scheme (c := 2) hc]; rfl
    · rw [scheme (c := 3) hc]; rfl
    · exact initOf_invalid _ _ _ _ (by rw [toNat_field]; exact hc)
  case predict => exact ⟨_, _, decode_predict h, toNat_topField w rfl, toNat_field w 2 30⟩
  case train =>
    exact ⟨_, _, _, _, _, decode_train h, toNat_getLsbD w 2, toNat_field w 8 8, toNat_topField w rfl, toNat_field w 3 5,
      toNat_field w 16 16⟩

/-! ## The reserved bits -/

theorem legal_initOf (c : BitVec 3) (g l p : Width) (resv : BitVec 41) : (initOf c g l p resv).legal = (resv == 0) := by
  rw [initOf]; split_ifs <;> rfl

theorem reservedZero_initOf (c : BitVec 3) (g l p : Width) (resv : BitVec 41) :
    (rowOf (initOf c g l p resv)).reservedZero = 0xFFFFFFFFFF800000 := by
  rw [initOf]; split_ifs <;> rfl

/-- TRAIN's mask is that of its two reserved fields. -/
theorem and_trainReserved_eq_zero_iff {w : Request} :
    w &&& 0x00000000FFFF00F8 = 0 ↔ w.extractLsb' 3 5 = 0 ∧ w.extractLsb' 16 16 = 0 := by
  have hmask : (0x00000000FFFF00F8 : Request) = 0xF8 ||| 0xFFFF0000 := rfl
  rw [hmask, BitVec.and_or_distrib_left]
  exact BitVec.or_eq_zero_iff.trans
    (and_congr (and_eq_zero_iff_field (by decide) (by decide)) (and_eq_zero_iff_field (by decide) (by decide)))

/-- The mask of a command's row holds exactly the reserved bits of its constructor (R79). -/
theorem legal_decode_iff (w : Request) : (decode w).legal = true ↔ w &&& (rowOf (decode w)).reservedZero = 0 := by
  rcases cmd_cases w with h | h | h | h
  · rw [decode_nop h, rowOf, rowNop, and_eq_zero_iff_field (lo := 2) (len := 62) (by decide) (by decide), Instr.legal, beq_iff_eq]
  · rw [decode_init h, legal_initOf, reservedZero_initOf,
      and_eq_zero_iff_field (lo := 23) (len := 41) (by decide) (by decide), beq_iff_eq]
  · rw [decode_predict h, rowOf, rowPredict, and_eq_zero_iff_field (lo := 2) (len := 30) (by decide) (by decide), Instr.legal,
      beq_iff_eq]
  · rw [decode_train h, rowOf, rowTrain, and_trainReserved_eq_zero_iff, Instr.legal, Bool.and_eq_true, beq_iff_eq, beq_iff_eq]

end Sys2Proof

namespace Sys2Proof.Machine

/-- A command with a reserved bit set is turned away before every other check (R79, R243). -/
theorem exec_of_not_legal {i : Instr} (h : i.legal = false) (s : State) : exec i s = .next (s.respond .badRequest) := by
  cases i with
  | nop resv => exact execNop_bad (by simpa [Instr.legal] using h) s
  | initStatic g l p resv => exact execInitStatic_bad g l p (by simpa [Instr.legal] using h) s
  | initGshare g l p resv => exact execInitGshare_bad g l p (by simpa [Instr.legal] using h) s
  | initTournament g l p resv => exact execInitTournament_bad g l p (by simpa [Instr.legal] using h) s
  | initBimode g l p resv => exact execInitBimode_bad g l p (by simpa [Instr.legal] using h) s
  | initInvalid c g l p resv => exact execInitInvalid_bad c g l p (by simpa [Instr.legal] using h) s
  | predict pc resv => exact execPredict_bad pc (by simpa [Instr.legal] using h) s
  | train o tag pc lo hi =>
    refine execTrain_bad o tag pc ?_ s
    simpa [Instr.legal, ← imp_iff_not_or] using h

/-- A word under `cmd`'s mask is its remainder modulo 4. -/
theorem and_three_eq {w : Request} {c : Request} (h : w.toNat % 4 = c.toNat) : w &&& 3 = c :=
  BitVec.eq_of_toNat_eq ((toNat_and_three w).trans h)

/-- Settles O6: the mask given for each `cmd` is that of the decoded command's row. -/
theorem reservedBitsGiveBadRequest : Obligations.ReservedBitsGiveBadRequest := by
  intro w mask hnop hinit hpredict htrain
  have hmask : mask = (rowOf (decode w)).reservedZero := by
    rcases cmd_cases w with h | h | h | h
    · rw [hnop (and_three_eq h), decode_nop h]; rfl
    · rw [hinit (and_three_eq h), decode_init h, reservedZero_initOf]
    · rw [hpredict (and_three_eq h), decode_predict h]; rfl
    · rw [htrain (and_three_eq h), decode_train h]; rfl
  rw [hmask]
  refine ⟨fun hset s => ?_, (legal_decode_iff w).2⟩
  have hlegal : (decode w).legal = false := by
    rw [← Bool.not_eq_true, legal_decode_iff]; exact hset
  exact exec_of_not_legal hlegal s

end Sys2Proof.Machine
end

section
/-! The request words of the assembler (spec R82), the response word (R76), and the one response of every request (R70, R279). -/

namespace Sys2Proof.Machine

/-! ## Words built with shifts -/

/-- A field put above the k bits of a word adds its value at `2^k`. -/
theorem toNat_or_field {n m k v : Nat} {w : BitVec n} (x : BitVec m) (hw : w.toNat = v) (hv : v < 2 ^ k) (hn : m + k ≤ n) :
    (w ||| x.setWidth n <<< k).toNat = x.toNat * 2 ^ k + v := by
  subst hw
  have hx : x.toNat <<< k < 2 ^ n := (Nat.shiftLeft_lt x.isLt).trans_le (Nat.pow_le_pow_right (by decide) hn)
  rw [BitVec.toNat_or, BitVec.toNat_shiftLeft, BitVec.toNat_setWidth_of_le (by omega), Nat.mod_eq_of_lt hx, Nat.or_comm,
    ← Nat.shiftLeft_add_eq_or_of_lt hv, Nat.shiftLeft_eq]

/-! ## The assembler's lines -/

theorem word_init (c : BitVec 3) (g l p : Width) : (AsmLine.init c g l p).word = some (encodeInit c g l p 0) := by
  have hc := toNat_or_field (w := (1 : Request)) (v := 1) c (k := 2) rfl (by decide) (by decide)
  have hg := toNat_or_field g (k := 5) hc (by omega) (by decide)
  have hl := toNat_or_field l (k := 11) hg (by omega) (by decide)
  have hp := toNat_or_field p (k := 17) hl (by omega) (by decide)
  refine congrArg some (BitVec.eq_of_toNat_eq (hp.trans ?_))
  simp only [toNat_encodeInit, BitVec.ofNat_eq_ofNat, BitVec.toNat_ofNat]
  omega

theorem word_predict (pc : Pc) : (AsmLine.predict pc).word = some (encode (.predict pc 0)) := by
  have hpc := toNat_or_field (w := (2 : Request)) (v := 2) pc (k := 32) rfl (by decide) (by decide)
  refine congrArg some (BitVec.eq_of_toNat_eq (hpc.trans ?_))
  simp only [toNat_encode_predict, BitVec.ofNat_eq_ofNat, BitVec.toNat_ofNat]
  omega

theorem word_train (tag : Tag) (pc : Pc) (o : Bool) : (AsmLine.train tag pc o).word = some (encode (.train o tag pc 0 0)) := by
  have ho := toNat_or_field (w := (3 : Request)) (v := 3) (BitVec.ofBool o) (k := 2) rfl (by decide) (by decide)
  have htag := toNat_or_field tag (k := 8) ho (by omega) (by decide)
  have hpc := toNat_or_field pc (k := 32) htag (by omega) (by decide)
  refine congrArg some (BitVec.eq_of_toNat_eq (hpc.trans ?_))
  simp only [toNat_encode_train, BitVec.toNat_ofBool, BitVec.ofNat_eq_ofNat, BitVec.toNat_ofNat]
  omega

/-- Settles O7: each line's word is the encoding of its command. -/
theorem assembledLinesDecodeToTheirCommands : Obligations.AssembledLinesDecodeToTheirCommands := by
  have init (c : BitVec 3) (g l p : Width) : (AsmLine.init c g l p).word.map decode = some (initOf c g l p 0) := by
    rw [word_init, Option.map_some, decode_encodeInit]
  refine ⟨congrArg some (decode_encode_nop 0), fun g l p => ⟨?static, ?gshare, ?tournament, ?bimode, fun c hc => ?invalid⟩,
    fun pc => ?predict, fun tag pc o => ?train⟩
  case static => exact init 0 g l p
  case gshare => exact init 1 g l p
  case tournament => exact init 2 g l p
  case bimode => exact init 3 g l p
  case invalid => rw [init, initOf_invalid g l p 0 hc]
  case predict => rw [word_predict, Option.map_some, decode_encode_predict]
  case train => rw [word_train, Option.map_some, decode_encode_train]

/-! ## The response word -/

section
variable (st : Status) (taken : Bool) (tag : Tag)

theorem toNat_responseWord : (responseWord st taken tag).toNat = tag.toNat * 2 ^ 8 + taken.toNat * 2 ^ 3 + st.code.toNat := by
  have hst : (st.code.setWidth 32).toNat = st.code.toNat := BitVec.toNat_setWidth_of_le (by decide)
  have htaken := toNat_or_field (BitVec.ofBool taken) (k := 3) hst (by omega) (by decide)
  have htag := toNat_or_field tag (k := 8) htaken (by omega) (by decide)
  rw [responseWord, BitVec.or_assoc, BitVec.or_comm, BitVec.or_comm (_ <<< _) (st.code.setWidth 32), htag, BitVec.toNat_ofBool]
  omega

/-- The response word from its fields and its zeros, the highest first. -/
theorem responseWord_eq_append :
    responseWord st taken tag = 0#16 ++ tag ++ 0#4 ++ BitVec.ofBool taken ++ st.code := by
  apply BitVec.eq_of_toNat_eq
  rw [toNat_responseWord]
  simp only [toNat_append_eq, BitVec.toNat_ofBool, BitVec.toNat_ofNat]
  omega

/-- Bits 7:4 and 31:16 of a response are 0. -/
theorem responseWord_and_zeros : responseWord st taken tag &&& 0xFFFF00F0 = 0 := by
  have hmask : (0xFFFF00F0 : Response) = 0xFFFF#16 ++ 0#8 ++ 0xF#4 ++ 0#1 ++ 0#3 := rfl
  rw [responseWord_eq_append, hmask, BitVec.and_append, BitVec.and_append, BitVec.and_append, BitVec.and_append]
  simp only [BitVec.zero_and, BitVec.and_zero]
  rfl

@[simp] theorem responseStatus_responseWord : responseStatus (responseWord st taken tag) = st.code := by
  have hw := toNat_responseWord st taken tag
  exact field_eq (by omega)

@[simp] theorem responseTaken_responseWord : responseTaken (responseWord st taken tag) = taken := by
  have hw := toNat_responseWord st taken tag
  have := taken.toNat_lt
  exact bit_eq (by omega)

@[simp] theorem responseTag_responseWord : responseTag (responseWord st taken tag) = tag := by
  have hw := toNat_responseWord st taken tag
  have := taken.toNat_lt
  exact field_eq (by omega)

end

theorem Status.toNat_code_le (st : Status) : st.code.toNat ≤ 5 := by cases st <;> decide

theorem Status.code_eq_zero_iff {st : Status} : st.code = 0 ↔ st = .ok := by cases st <;> decide

/-! ## The response of a command -/

/-- `t` answers the command `i` given in `s`: one response more, taken and tag 0 but in an OK response to PREDICT, and the caller's
list as it was. -/
def State.Answers (s : State) (i : Instr) (t : State) : Prop :=
  ∃ (st : Status) (taken : Bool) (tag : Tag), t.responses = responseWord st taken tag :: s.responses ∧
    (taken = true ∨ tag ≠ 0 → st = .ok ∧ ∃ pc : Pc, i = .predict pc 0) ∧ t.pending = s.pending

/-- A response with taken and tag 0 answers every command. -/
theorem State.Answers.of_respond {s u : State} (hr : u.responses = s.responses) (hp : u.pending = s.pending) (i : Instr)
    (st : Status) : s.Answers i (u.respond st) :=
  ⟨st, false, 0, by rw [State.respond_responses, hr], by simp, hp⟩

theorem exec_answers (s : State) (i : Instr) : ∃ t, exec i s = .next t ∧ s.Answers i t :=
  exec_elim s (motive := s.Answers) (i := i)
    (away := fun i st _ => .of_respond rfl rfl i st)
    (nop := .of_respond rfl rfl _ _)
    (static := fun _ _ _ => .of_respond rfl rfl _ _)
    (gshare := fun _ _ _ _ => .of_respond rfl rfl _ _)
    (tournament := fun _ _ _ _ _ _ => .of_respond rfl rfl _ _)
    (bimode := fun _ _ _ => .of_respond rfl rfl _ _)
    (fail := fun i _ => .of_respond rfl rfl i .cfgError)
    (predict := fun pc _ _ _ => ⟨_, _, _, rfl, fun _ => ⟨rfl, pc, rfl⟩, rfl⟩)
    (train := fun _ _ _ _ _ => .of_respond (by simp) (by simp) _ _)

/-- Settles O10: the command runs in the state that no longer holds its request, and answers it. -/
theorem eachRequestGetsOneResponseInOneStep : Obligations.EachRequestGetsOneResponseInOneStep := by
  intro s w rest hpending
  obtain ⟨t, ht, st, taken, tag, hresponses, -, hrest⟩ := exec_answers (s.dequeue rest) (decode w)
  exact ⟨t, responseWord st taken tag, (step_of_pending_cons hpending).trans ht, hresponses, hrest⟩

/-- Settles O11: the response is a response word, whose fields are those it was built from. -/
theorem responseWordLayout : Obligations.ResponseWordLayout := by
  refine ⟨toNat_responseWord, fun i s t r ht hr => ?_⟩
  obtain ⟨st, taken, tag, hresponses, hpredict, -⟩ := of_exec_eq_next (exec_answers s i) ht
  obtain rfl : r = responseWord st taken tag := List.head_eq_of_cons_eq (hr.symm.trans hresponses)
  rw [responseStatus_responseWord, responseTaken_responseWord, responseTag_responseWord, Status.code_eq_zero_iff]
  exact ⟨st.toNat_code_le, responseWord_and_zeros st taken tag, hpredict⟩

end Sys2Proof.Machine
end

section
/-! RESOLVE, the caller's PREDICT and TRAIN of one prediction (spec R83). -/

namespace Sys2Proof.Machine

section
variable {s t : State} {pc : Pc}

/-- After a PREDICT that responds OK, RESOLVE goes on with the TRAIN of its tag. -/
theorem resolve_of_predict_ok {taken : Bool} {tag : Tag} {rs : List Response} (hp : exec (.predict pc 0) s = .next t)
    (hr : t.responses = responseWord .ok taken tag :: rs) (o : Bool) : resolve pc o s = exec (.train o tag pc 0 0) t := by
  simp only [resolve, hp, hr, responseStatus_responseWord, responseTag_responseWord]
  exact if_pos rfl

/-- After a PREDICT that responds anything else, RESOLVE ends. -/
theorem resolve_of_predict_away {st : Status} (hst : st ≠ .ok) (hp : exec (.predict pc 0) s = .next (s.respond st)) (o : Bool) :
    resolve pc o s = .next (s.respond st) := by
  simp only [resolve, hp, State.respond_responses, responseStatus_responseWord]
  exact if_neg fun h => hst (Status.code_eq_zero_iff.1 h)

end

/-- The train operations neither read nor write the slots and the responses. -/
theorem State.unitTrain_afterPredict (s : State) (pc : Pc) (k : Nat) (c : Ctx) (o : Bool) :
    (s.afterPredict pc k).unitTrain c o =
      { s.unitTrain c o with pcb := (s.afterPredict pc k).pcb, responses := (s.afterPredict pc k).responses } := by
  obtain ⟨p, m, _, _, _, _, _, _, _, _, _⟩ := s
  cases m <;> rfl

section
variable {s : State} {k : Nat} (hinv : s.Inv) (hk : s.freeSlot = some k) (pc : Pc) (o : Bool)
include hinv hk

/-- The tag of a PREDICT's response names the slot that holds its pc. -/
theorem State.slotMatches_afterPredict : (s.afterPredict pc k).slotMatches (BitVec.ofNat 8 k) pc = true := by
  obtain ⟨hlt, -, -⟩ := State.freeSlot_eq_some.1 hk
  obtain ⟨hwf, -⟩ := hinv.tables
  rw [State.slotMatches_iff, State.toNat_tag_of_freeSlot hinv.params hk, State.afterPredict_slot_same hwf]
  exact ⟨hlt, rfl, rfl⟩

theorem resolve_of_freeSlot (hmode : s.mode.refusal = none) :
    resolve pc o s = .next ((s.afterPredict pc k).afterTrain o (BitVec.ofNat 8 k)) := by
  rw [resolve_of_predict_ok (execPredict_ok hmode hk pc) rfl]
  exact execTrain_ok (s := s.afterPredict pc k) hmode (State.slotMatches_afterPredict hinv hk pc) o

/-- The slot was free, so all-zero, before the PREDICT took it, and it is so again when the TRAIN has freed it. -/
theorem State.slot_afterTrain_afterPredict (j : Nat) :
    ((s.afterPredict pc k).afterTrain o (BitVec.ofNat 8 k)).slot j = s.slot j := by
  have htag := State.toNat_tag_of_freeSlot hinv.params hk
  by_cases hj : j = k
  · obtain ⟨-, hfree, -⟩ := State.freeSlot_eq_some.1 hk
    obtain ⟨hwf, -⟩ := hinv.tables
    obtain ⟨-, -, -, -, hinvalid, -⟩ := invariantBoundsEveryRead s hinv
    have hzero := State.afterTrain_slot_same (s := s.afterPredict pc k) (Table.write_wf hwf _ _) o (BitVec.ofNat 8 k)
    rw [htag] at hzero
    rw [hj, hzero, hinvalid k hfree]
  · rw [State.afterTrain_slot_ne _ o (by rwa [htag]), State.afterPredict_slot_ne s pc hj]

end

/-- Settles O35: the TRAIN finds the context that the PREDICT recorded in its slot, and frees the slot again. -/
theorem resolveTrainsItsOwnPrediction : Obligations.ResolveTrainsItsOwnPrediction := by
  intro s pc o
  refine ⟨fun k hinv hu he hk => ?ok, fun hm => ?unconfigured, fun hm => ?error, fun hu he hfull => ?busy⟩
  case ok =>
    have hmode : s.mode.refusal = none := Mode.refusal_eq_none_iff.2 ⟨hu, he⟩
    have htag := State.toNat_tag_of_freeSlot hinv.params hk
    obtain ⟨hwf, -⟩ := hinv.tables
    refine ⟨_, BitVec.ofNat 8 k, resolve_of_freeSlot hinv hk pc o hmode, htag,
      State.slot_afterTrain_afterPredict hinv hk pc o, ?_⟩
    rw [State.afterTrain, htag, State.afterPredict_slot_same hwf, State.unitTrain_afterPredict]
    rfl
  case unconfigured =>
    exact resolve_of_predict_away (st := .unconfigured) (by decide) (execPredict_refused (by rw [hm]; rfl) pc) o
  case error => exact resolve_of_predict_away (st := .cfgError) (by decide) (execPredict_refused (by rw [hm]; rfl) pc) o
  case busy =>
    have hmode : s.mode.refusal = none := Mode.refusal_eq_none_iff.2 ⟨hu, he⟩
    exact resolve_of_predict_away (by decide) (execPredict_busy hmode (State.freeSlot_eq_none.2 hfull) pc) o

end Sys2Proof.Machine
end

section
/-! PROOFS. The bounded counter and the history register (`40_counters_history.md`): one use, and a run of uses. -/

namespace Sys2Proof.Machine

/-- Settles O15: the shift has this value for every history, so the bound on h is not needed. -/
theorem historyShiftAppendsTheOutcome : Obligations.HistoryShiftAppendsTheOutcome :=
  fun h o _ _ hn _ => toNat_hshift h o hn

/-! ## The bounded counter of width n -/

theorem readOut_eq_true_iff {n : Nat} (v : BitVec n) : readOut v = true ↔ 2 ^ (n - 1) ≤ v.toNat := decide_eq_true_iff

theorem readOut_eq_false_iff {n : Nat} (v : BitVec n) : readOut v = false ↔ v.toNat < 2 ^ (n - 1) := by
  rw [readOut, decide_eq_false_iff_not, Nat.not_le]

/-- Settles O14: bump2, pred2, bump3 and pred3 are the generic counter by definition. -/
theorem countersAreOneBoundedCounter : Obligations.CountersAreOneBoundedCounter := by
  refine ⟨fun n v d => ⟨?_, readOut_eq_true_iff v⟩, fun v _ => ⟨rfl, readOut_eq_true_iff v⟩,
    fun v _ => ⟨rfl, readOut_eq_true_iff v⟩⟩
  rw [toNat_bump, Nat.max_zero]

/-- Settles O12: the bounded counter at width 2. -/
theorem twoBitCounterBumpAndReadOut : Obligations.TwoBitCounterBumpAndReadOut :=
  countersAreOneBoundedCounter.1 2

/-- Settles O13: the bounded counter at width 3. -/
theorem threeBitCounterBumpAndReadOut : Obligations.ThreeBitCounterBumpAndReadOut :=
  countersAreOneBoundedCounter.1 3

theorem toNat_iterate_bump_true {n : Nat} (v : BitVec n) (k : Nat) :
    ((fun x => bump x true)^[k] v).toNat = min (v.toNat + k) (2 ^ n - 1) := by
  have hv := v.isLt
  induction k with
  | zero => rw [Function.iterate_zero_apply]; omega
  | succ k ih => rw [Function.iterate_succ_apply', toNat_bump, if_pos rfl, ih]; omega

theorem toNat_iterate_bump_false {n : Nat} (v : BitVec n) (k : Nat) :
    ((fun x => bump x false)^[k] v).toNat = v.toNat - k := by
  induction k with
  | zero => rfl
  | succ k ih => rw [Function.iterate_succ_apply', toNat_bump, if_neg Bool.false_ne_true, ih]; omega

/-- Toward taken the counter only rises, and its bound is not below the threshold; toward not-taken it only falls. -/
theorem readOut_bump_of_readOut {n : Nat} {v : BitVec n} {d : Bool} (h : readOut v = d) : readOut (bump v d) = d := by
  have hv := v.isLt
  cases d with
  | true =>
    rw [readOut_eq_true_iff] at h ⊢
    rw [toNat_bump, if_pos rfl]
    omega
  | false =>
    rw [readOut_eq_false_iff] at h ⊢
    rw [toNat_bump, if_neg Bool.false_ne_true]
    omega

/-! ## A run of history shifts -/

/-- Bit i within the width is the i-th outcome from the last, once there were that many; past the width one shift clears it. -/
theorem getLsbD_foldl_hshift (h : History) {n : Nat} {os : List Bool} (hne : os ≠ []) {i : Nat} (hi : i < 32)
    (hlen : i < n → i < os.length) :
    (os.foldl (fun x o => hshift x o n) h).getLsbD i = (decide (i < n) && os.reverse.getD i false) := by
  induction os using List.reverseRecOn generalizing i with
  | nil => exact absurd rfl hne
  | append_singleton os o ih =>
    rw [List.foldl_concat, List.reverse_concat]
    cases i with
    | zero => rw [getLsbD_hshift_zero, List.getD_cons_zero]
    | succ i =>
      rw [getLsbD_hshift_succ _ _ _ _ hi, List.getD_cons_succ]
      by_cases hin : i + 1 < n
      · have hshort : i < os.length := by simpa using hlen hin
        rw [ih (List.ne_nil_of_length_pos (by omega)) (by omega) fun _ => hshort, decide_eq_true (show i < n by omega),
          Bool.true_and]
      · rw [decide_eq_false hin, Bool.false_and, Bool.false_and]

/-- Settles O16: (b) at k bumps no fewer than the bound, (d) at no fewer outcomes than the width. -/
theorem counterAndShifterLaws : Obligations.CounterAndShifterLaws := by
  refine ⟨hshift_lt, fun n v k hk => ?bumps, fun _ _ _ => readOut_bump_of_readOut, fun n h os hn _ hos i hi => ?shifts⟩
  case bumps =>
    have hv := v.isLt
    rw [toNat_iterate_bump_true, toNat_iterate_bump_false]
    omega
  case shifts => exact getLsbD_foldl_hshift h (List.ne_nil_of_length_pos (by omega)) hi fun hin => by omega

end Sys2Proof.Machine
end

section
/-! Recorded contexts (spec R125, R151, D19): which steps keep a slot fresh, and what a fresh context holds. -/

namespace Sys2Proof.Machine

/-! ## Freshness over the updates -/

section
variable {s : State} {k : Nat}

/-- A free slot counts as fresh. -/
theorem State.slotFresh_of_zero (h : s.slot k = Ctx.zero) : s.slotFresh k := by
  intro hv
  rw [h] at hv
  cases hv

/-- No response is read by a prediction. -/
theorem State.slotFresh.respondWith (h : s.slotFresh k) (st : Status) (taken : Bool) (tag : Tag) :
    (s.respondWith st taken tag).slotFresh k := h

theorem State.slotFresh.dequeue (h : s.slotFresh k) (rest : List Request) : (s.dequeue rest).slotFresh k := h

/-- A PREDICT records what it computed and trains no unit, so its own slot is fresh and any other stays so (R208). -/
theorem State.slotFresh.afterPredict (h : s.slotFresh k) (hwf : s.pcb.wf) (hmode : s.mode.refusal = none) (pc : Pc) (j : Nat) :
    (s.afterPredict pc j).slotFresh k := by
  rw [State.slotFresh]
  by_cases hjk : k = j
  · rw [hjk, State.afterPredict_slot_same hwf]
    exact fun _ => ⟨hmode, rfl⟩
  · rw [State.afterPredict_slot_ne s pc hjk]
    exact h

/-! ## Freshness over a command and over a step -/

/-- The command `i`, given in `s`, is a TRAIN that found its prediction, and `t` is the state after it. -/
abbrev State.trainedBy (s : State) (i : Instr) (t : State) : Prop :=
  rowOf i = rowTrain ∧ ∃ (o : Bool) (tag : Tag) (pc : Pc), s.slotMatches tag pc = true ∧ t = s.afterTrain o tag

/-- Every command but such a TRAIN keeps a fresh slot fresh. -/
theorem exec_keeps_slotFresh_or_trains (hwf : s.pcb.wf) (h : s.slotFresh k) (i : Instr) :
    ∃ t, exec i s = .next t ∧ (t.slotFresh k ∨ s.trainedBy i t) :=
  exec_elim s (motive := fun i t => t.slotFresh k ∨ s.trainedBy i t) (i := i)
    (away := fun _ st _ => .inl (h.respondWith st false 0))
    (nop := .inl (h.respondWith .ok false 0))
    (static := fun _ _ _ => .inl (State.slotFresh_of_zero rfl))
    (gshare := fun _ _ _ _ => .inl (State.slotFresh_of_zero rfl))
    (tournament := fun _ _ _ _ _ _ => .inl (State.slotFresh_of_zero rfl))
    (bimode := fun _ _ _ => .inl (State.slotFresh_of_zero rfl))
    (fail := fun _ _ => .inl (State.slotFresh_of_zero rfl))
    (predict := fun pc j hmode _ => .inl (h.afterPredict hwf hmode pc j))
    (train := fun o tag pc _ hm => .inr ⟨rfl, o, tag, pc, hm, rfl⟩)

/-- A step is idle, or it runs the next request's command. -/
theorem step_eq_next_cases {t : State} (h : step s = .next t) :
    t = s ∨ ∃ w rest, s.pending = w :: rest ∧ exec (decode w) (s.dequeue rest) = .next t := by
  cases hp : s.pending with
  | nil =>
    rw [step, hp] at h
    cases h
    exact .inl rfl
  | cons w rest => exact .inr ⟨w, rest, rfl, (step_of_pending_cons hp).symm.trans h⟩

end

/-- Settles O53: the one command that may leave a slot not fresh is the TRAIN that responds OK. -/
theorem contextsStayFreshUntilATrain : Obligations.ContextsStayFreshUntilATrain := by
  intro s t k hinv hfresh hstep htrain
  rcases step_eq_next_cases hstep with rfl | ⟨w, rest, hp, hexec⟩
  · exact hfresh
  · obtain ⟨hwf, -⟩ := hinv.tables
    rcases of_exec_eq_next (exec_keeps_slotFresh_or_trains (s := s.dequeue rest) hwf (hfresh.dequeue rest) _) hexec with
      hk | ⟨hrow, o, tag, pc, -, rfl⟩
    · exact hk
    · have hresponses : ((s.dequeue rest).afterTrain o tag).responses = 0 :: s.responses := by
        rw [State.respond_responses, State.writeSlot_responses, State.unitTrain_responses]
        rfl
      exact absurd hresponses (htrain w rest hp hrow)

/-- Where there is one slot, a TRAIN that finds its prediction frees it. -/
theorem State.slotFresh_afterTrain_of_wSeq_eq_zero {s : State} (hwf : s.pcb.wf) (hseq : s.params.wSeq = 0) {tag : Tag} {pc : Pc}
    (hm : s.slotMatches tag pc = true) (o : Bool) : (s.afterTrain o tag).slotFresh 0 := by
  obtain ⟨hlt, -, -⟩ := State.slotMatches_iff.1 hm
  rw [Params.nslot, hseq, Nat.pow_zero, Nat.lt_one_iff] at hlt
  apply State.slotFresh_of_zero
  rw [← hlt]
  exact State.afterTrain_slot_same hwf o tag

/-- Settles O46: with one slot, the TRAIN that could leave a context not fresh has freed that slot. -/
theorem singleOutstandingContextStaysFresh : Obligations.SingleOutstandingContextStaysFresh := by
  rintro s t hinv ⟨hseq, hfresh⟩ hstep
  rcases step_eq_next_cases hstep with rfl | ⟨w, rest, -, hexec⟩
  · exact ⟨hseq, hfresh⟩
  · obtain ⟨hwf, -⟩ := hinv.tables
    have hparams : t.params = s.params := of_exec_eq_next (exec_keeps_params (s.dequeue rest) _) hexec
    refine ⟨by rw [hparams]; exact hseq, ?_⟩
    rcases of_exec_eq_next (exec_keeps_slotFresh_or_trains (s := s.dequeue rest) hwf (hfresh.dequeue rest) _) hexec with
      hk | ⟨-, o, tag, pc, hm, rfl⟩
    · exact hk
    · exact State.slotFresh_afterTrain_of_wSeq_eq_zero (s := s.dequeue rest) hwf hseq hm o

/-! ## What a fresh context holds -/

/-- The train operations read neither the valid bit nor the pc of a context. -/
theorem State.unitTrain_recorded (s : State) (c : Ctx) (pc : Pc) (o : Bool) :
    s.unitTrain { c with valid := true, pc := pc } o = s.unitTrain c o := by
  obtain ⟨p, m, _, _, _, _, _, _, _, _, _⟩ := s
  cases m <;> rfl

/-- Settles O47: field by field, the context is the one the mode's prediction computes. -/
theorem recordedContextEqualsRecomputation : Obligations.RecordedContextEqualsRecomputation := by
  intro s k c hfresh hc hv
  rw [State.slotFresh, hc] at hfresh
  obtain ⟨-, hrec⟩ := hfresh hv
  refine ⟨fun o => ?train, fun hm => ?gshare, fun hm => ?tournament, fun hm => ?bimode⟩
  case train =>
    calc s.unitTrain c o = s.unitTrain { (s.unitPredict c.pc).2 with valid := true, pc := c.pc } o := by rw [← hrec]
      _ = s.unitTrain (s.unitPredict c.pc).2 o := s.unitTrain_recorded _ _ o
  case gshare =>
    rw [State.unitPredict_gshare hm] at hrec
    have hgidx : c.gidx = gsIndex s.gs s.widthG c.pc := congrArg Ctx.gidx hrec
    rw [hgidx, gsIndex, toNat_and_mask]
  case tournament =>
    rw [State.unitPredict_tournament hm] at hrec
    have hgidx : c.gidx = tnGidx s.tn s.widthG := congrArg Ctx.gidx hrec
    have hpidx : c.pidx = tnPidx s.widthP c.pc := congrArg Ctx.pidx hrec
    have hlidx : c.lidx = tnLidx s.tn s.widthL s.widthP c.pc := congrArg Ctx.lidx hrec
    have hgpred : c.gpred = tnPredictGlobal s.tn s.widthG := congrArg Ctx.gpred hrec
    have hlpred : c.lpred = tnPredictLocal s.tn s.widthL s.widthP c.pc := congrArg Ctx.lpred hrec
    rw [hgpred, hlpred, hgidx, hlidx, hpidx]
    exact ⟨toNat_and_mask _ _, toNat_and_mask _ _, toNat_and_mask _ _, rfl, rfl⟩
  case bimode =>
    rw [State.unitPredict_bimode hm] at hrec
    have hdidx : c.didx = bmDidx s.bm c.pc := congrArg Ctx.didx hrec
    have hcidx : c.cidx = bmCidx c.pc := congrArg Ctx.cidx hrec
    have hsel : c.sel = pred3 (s.bm.chooser.read (bmCidx c.pc).toNat) := congrArg Ctx.sel hrec
    have hselpred : c.selpred = (bmPredict s.bm c.pc).1 := congrArg Ctx.selpred hrec
    rw [hselpred, hdidx, hcidx, hsel]
    exact ⟨toNat_and_mask _ _, toNat_and_mask _ _, rfl, rfl⟩

end Sys2Proof.Machine
end

section
/-! The Gshare unit (`41_gshare.md`): PREDICT and TRAIN in its mode (R121 to R123), and its laws (R126). -/

namespace Sys2Proof.Machine

/-- What a PREDICT with a free slot does in any scheme: it records the unit's context there and answers the unit's prediction
with the slot's number, and nothing else changes (R208). -/
theorem execPredict_records {s : State} {k : Nat} (hinv : s.Inv) (hmode : s.mode.refusal = none) (hk : s.freeSlot = some k)
    (pc : Pc) : ∃ (t : State) (tag : Tag), exec (.predict pc 0) s = .next t ∧ tag.toNat = k ∧
      t.slot k = { (s.unitPredict pc).2 with valid := true, pc := pc } ∧ (∀ j, j ≠ k → t.slot j = s.slot j) ∧
      t = { s with pcb := t.pcb, responses := responseWord .ok (s.unitPredict pc).1 tag :: s.responses } := by
  obtain ⟨hwf, -⟩ := hinv.tables
  exact ⟨_, _, execPredict_ok hmode hk pc, State.toNat_tag_of_freeSlot hinv.params hk, State.afterPredict_slot_same hwf pc k,
    fun _ hj => State.afterPredict_slot_ne s pc hj, rfl⟩

/-- Settles O27: what every PREDICT does, with the Gshare unit's index and read-out. -/
theorem predictInGshare : Obligations.PredictInGshare := by
  intro s pc k hinv hm hk
  obtain ⟨t, tag, hexec, htag, hslot, hother, hframe⟩ := execPredict_records hinv (by rw [hm]; rfl) hk pc
  rw [State.unitPredict_gshare hm] at hslot hframe
  exact ⟨t, tag, gsIndex s.gs s.widthG pc, hexec, htag, toNat_and_mask _ _, hslot, hother, hframe⟩

/-! ## One train -/

section
variable (u : Gshare) (n : Nat) (c : Ctx) (o : Bool)

theorem gsTrain_read_ne {i : Nat} (h : i ≠ c.gidx.toNat) : (gsTrain u n c o).table.read i = u.table.read i :=
  Table.read_write_ne u.table _ h

theorem gsTrain_read_same {u : Gshare} (h : u.table.wf) :
    (gsTrain u n c o).table.read c.gidx.toNat = bump2 (u.table.read c.gidx.toNat) o :=
  Table.read_write_same h _ _

theorem gsTrain_hist : (gsTrain u n c o).hist = hshift u.hist o n := rfl

end

/-- In GSHARE the active width is a legal one. -/
theorem State.Inv.widthG_le_of_gshare {s : State} (h : s.Inv) (hm : s.mode = .gshare) : s.widthG ≤ 32 := by
  obtain ⟨-, hgshare, -, -⟩ := h.cfg
  obtain ⟨hvalid, -, -⟩ := hgshare hm
  obtain ⟨-, hle⟩ := validW_iff.1 hvalid
  obtain ⟨⟨-, hmax⟩, -⟩ := h.params
  exact hle.trans hmax

/-- Settles O32: the unit's training with the slot's context, and the slot freed. -/
theorem trainInGshare : Obligations.TrainInGshare := by
  intro s o tag pc hinv hm hlt hv hpc
  obtain ⟨hpcb, hgs, -⟩ := hinv.tables
  have hunit := State.unitTrain_gshare hm (s.slot tag.toNat) o
  have htrained : (s.afterTrain o tag).gs = gsTrain s.gs s.widthG (s.slot tag.toNat) o := by
    rw [State.afterTrain, hunit]; rfl
  refine ⟨s.afterTrain o tag, execTrain_ok (by rw [hm]; rfl) (State.slotMatches_iff.2 ⟨hlt, hv, hpc⟩) o, ?bumped, ?others,
    ?hist, State.afterTrain_slot_same hpcb o tag, fun _ hj => State.afterTrain_slot_ne s o hj, ?frame⟩
  case bumped =>
    rintro _ rfl
    rw [htrained, gsTrain_read_same _ _ _ hgs]
  case others =>
    intro i hi
    rw [htrained, gsTrain_read_ne _ _ _ _ hi]
  case hist => rw [htrained, gsTrain_hist, toNat_hshift _ _ (hinv.widthG_le_of_gshare hm)]
  case frame => rw [State.afterTrain, hunit]; rfl

/-! ## The laws -/

/-- A bump changes a counter unless it is saturated toward the outcome. -/
theorem bump2_eq_self_iff : ∀ (v : Counter2) (d : Bool), bump2 v d = v ↔ v = if d then 3 else 0 := by decide

/-- The history after a run of trains is that of a run of shifts by their outcomes. -/
theorem foldl_gsTrain_hist (u : Gshare) (n : Nat) (cs : List (Ctx × Bool)) :
    (cs.foldl (fun v co => gsTrain v n co.1 co.2) u).hist = (cs.map Prod.snd).foldl (fun h o => hshift h o n) u.hist := by
  rw [List.foldl_map]
  exact (List.foldl_hom Gshare.hist fun v co => (gsTrain_hist v n co.1 co.2).symm).symm

/-- Settles O50: (a) by the mask, (b) by the unit's table and counter, (c) by the run of shifts. -/
theorem gshareLaws : Obligations.GshareLaws := by
  intro u n hwf hn1 hn
  refine ⟨fun pc => toNat_and_mask_lt _ n, fun c o => ⟨fun i hi => gsTrain_read_ne u n c o hi, ?saturated, fun _ => ?shifted⟩,
    fun cs hlen i hi => ?lastOutcomes⟩
  case saturated => rw [gsTrain_read_same n c o hwf, bump2_eq_self_iff]
  case shifted => exact toNat_hshift u.hist o hn
  case lastOutcomes =>
    have hlength : (cs.map Prod.snd).length = cs.length := List.length_map _
    rw [foldl_gsTrain_hist]
    exact getLsbD_foldl_hshift u.hist (List.ne_nil_of_length_pos (by omega)) hi fun hin => by omega

end Sys2Proof.Machine
end

section
/-! The Tournament unit (`42_tournament.md`): PREDICT and TRAIN in its mode (R141 to R149), and the chooser's law (R152). -/

namespace Sys2Proof.Machine

/-! ## PREDICT -/

theorem pred2_eq_decide (v : Counter2) : pred2 v = decide (2 ≤ v.toNat) := rfl

/-- A chooser value of 2 or more answers with the local sub-prediction, a lower one with the global one (R144). -/
theorem tnPredict_taken (u : Tournament) (g l p : Nat) (pc : Pc) : (tnPredict u g l p pc).1 =
    if 2 ≤ (u.chooser.read (tnGidx u g).toNat).toNat then tnPredictLocal u l p pc else tnPredictGlobal u g := by
  simp only [tnPredict, pred2_eq_decide, decide_eq_true_eq]

/-- Settles O28: what every PREDICT does, with the Tournament unit's indices, sub-predictions and choice. -/
theorem predictInTournament : Obligations.PredictInTournament := by
  intro s pc k hinv hm hk
  obtain ⟨t, tag, hexec, htag, hslot, hother, hframe⟩ := execPredict_records hinv (by rw [hm]; rfl) hk pc
  rw [State.unitPredict_tournament hm] at hslot hframe
  rw [tnPredict_taken] at hframe
  exact ⟨t, tag, tnGidx s.tn s.widthG, tnPidx s.widthP pc, tnLidx s.tn s.widthL s.widthP pc, tnPredictGlobal s.tn s.widthG,
    tnPredictLocal s.tn s.widthL s.widthP pc, hexec, htag, toNat_and_mask _ _, toNat_and_mask _ _, toNat_and_mask _ _,
    pred2_eq_decide _, pred2_eq_decide _, hslot, hother, hframe⟩

/-! ## The chooser over one train -/

/-- Of the two sub-predictions, the outcome bears out only the local one (`d` true) or only the global one (`d` false). -/
abbrev Ctx.onlyRight (c : Ctx) (o d : Bool) : Prop := (c.lpred == o) = d ∧ (c.gpred == o) = !d

section
variable {c : Ctx} {o : Bool}

theorem Ctx.onlyRight_true_iff : c.onlyRight o true ↔ c.lpred = o ∧ c.gpred ≠ o := by simp [Ctx.onlyRight]

theorem Ctx.onlyRight_false_iff : c.onlyRight o false ↔ c.gpred = o ∧ c.lpred ≠ o := by simp [Ctx.onlyRight, and_comm]

end

section
variable {u : Tournament} (g l : Nat) {c : Ctx} {o : Bool}

theorem tnTrain_chooser_of_onlyRight {d : Bool} (h : c.onlyRight o d) : (tnTrain u g l c o).chooser =
    u.chooser.write c.gidx.toNat (bump2 (u.chooser.read c.gidx.toNat) d) := by
  obtain ⟨hlocal, hglobal⟩ := h
  rw [tnTrain_chooser, tnTrainChooser, hlocal, hglobal]
  cases d <;> rfl

theorem tnTrain_chooser_of_agree (h : c.lpred = c.gpred) : (tnTrain u g l c o).chooser = u.chooser := by
  rw [tnTrain_chooser, tnTrainChooser, h]
  simp

theorem tnTrain_chooser_read_same (hwf : u.chooser.wf) {d : Bool} (h : c.onlyRight o d) :
    (tnTrain u g l c o).chooser.read c.gidx.toNat = bump2 (u.chooser.read c.gidx.toNat) d := by
  rw [tnTrain_chooser_of_onlyRight g l h]
  exact Table.read_write_same hwf _ _

theorem tnTrain_chooser_read_ne {i : Nat} (h : i ≠ c.gidx.toNat) :
    (tnTrain u g l c o).chooser.read i = u.chooser.read i := by
  rw [tnTrain_chooser]
  rcases tnTrainChooser_chooser u c o with hc | ⟨v, hc⟩
  · rw [hc]
  · rw [hc]; exact Table.read_write_ne u.chooser v h

theorem tnTrain_chooser_wf (hwf : u.chooser.wf) : (tnTrain u g l c o).chooser.wf := by
  rw [tnTrain_chooser]
  rcases tnTrainChooser_chooser u c o with hc | ⟨v, hc⟩ <;> rw [hc]
  · exact hwf
  · exact Table.write_wf hwf _ _

end

/-! ## TRAIN -/

theorem validW_le {p : Params} (hp : p.legal) {w : Width} (hw : validW p w = true) : w.toNat ≤ 32 := by
  obtain ⟨-, hle⟩ := validW_iff.1 hw
  obtain ⟨⟨-, hmax⟩, -⟩ := hp
  exact hle.trans hmax

/-- Settles O33: the unit's training with the slot's context, table by table, and the slot freed. -/
theorem trainInTournament : Obligations.TrainInTournament := by
  rintro s o tag pc c np hinv hm hlt rfl hv hpc hnp
  obtain ⟨hpcb, -, ⟨hglob, hloc, hlht, hchooser⟩, -⟩ := hinv.tables
  obtain ⟨-, -, hcfg, -⟩ := hinv.cfg
  obtain ⟨hG, hL, -⟩ := hcfg hm
  have hunit := State.unitTrain_tournament hm (s.slot tag.toNat) o
  have htrained : (s.afterTrain o tag).tn = tnTrain s.tn s.widthG s.widthL (s.slot tag.toNat) o := by
    rw [State.afterTrain, hunit]; rfl
  have hpattern : (hshift (s.tn.lht.read (s.slot tag.toNat).pidx.toNat) o s.widthL).toNat = np := by
    rw [hnp]; exact toNat_hshift _ o (validW_le hinv.params hL)
  refine ⟨s.afterTrain o tag, execTrain_ok (by rw [hm]; rfl) (State.slotMatches_iff.2 ⟨hlt, hv, hpc⟩) o,
    fun hl hg => ?onlyLocal, fun hg hl => ?onlyGlobal, fun h => ?agree, fun i hi => ?chooserOthers, ?pattern,
    fun i hi => ?patternOthers, ?localCounter, fun i hi => ?localOthers, ?globalCounter, fun i hi => ?globalOthers, ?hist,
    State.afterTrain_slot_same hpcb o tag, fun _ hj => State.afterTrain_slot_ne s o hj, ?frame⟩
  case onlyLocal => rw [htrained]; exact tnTrain_chooser_read_same _ _ hchooser (Ctx.onlyRight_true_iff.2 ⟨hl, hg⟩)
  case onlyGlobal => rw [htrained]; exact tnTrain_chooser_read_same _ _ hchooser (Ctx.onlyRight_false_iff.2 ⟨hg, hl⟩)
  case agree => rw [htrained, tnTrain_chooser_of_agree _ _ h]
  case chooserOthers => rw [htrained, tnTrain_chooser_read_ne _ _ hi]
  case pattern => rw [htrained, tnTrain_lht, Table.read_write_same hlht, hpattern]
  case patternOthers => rw [htrained, tnTrain_lht, Table.read_write_ne _ _ hi]
  case localCounter => rw [htrained, tnTrain_loc, hpattern, Table.read_write_same hloc]
  case localOthers => rw [htrained, tnTrain_loc, hpattern, Table.read_write_ne _ _ hi]
  case globalCounter => rw [htrained, tnTrain_glob, Table.read_write_same hglob]
  case globalOthers => rw [htrained, tnTrain_glob, Table.read_write_ne _ _ hi]
  case hist => rw [htrained, tnTrain_hist]; exact toNat_hshift _ o (validW_le hinv.params hG)
  case frame => rw [State.afterTrain, hunit]; rfl

/-! ## The chooser over a run of trains -/

/-- Where every train at one index bears out the same sub-prediction alone, the chooser entry there is bumped its way once for
each of them, whatever is trained in between. -/
theorem foldl_tnTrain_chooser_read (g l : Nat) {gi : Nat} {d : Bool} {u : Tournament} (hwf : u.chooser.wf)
    {cs : List (Ctx × Bool)} (h : ∀ co ∈ cs, co.1.gidx.toNat = gi → co.1.onlyRight co.2 d) :
    (cs.foldl (fun v co => tnTrain v g l co.1 co.2) u).chooser.read gi =
      (fun v => bump v d)^[(cs.filter (fun co => co.1.gidx.toNat == gi)).length] (u.chooser.read gi) := by
  induction cs generalizing u with
  | nil => rfl
  | cons co cs ih =>
    obtain ⟨hco, hcs⟩ := List.forall_mem_cons.1 h
    rw [List.foldl_cons, ih (tnTrain_chooser_wf g l hwf) hcs]
    by_cases hgi : co.1.gidx.toNat = gi
    · have hbumped := tnTrain_chooser_read_same g l hwf (hco hgi)
      rw [hgi] at hbumped
      rw [List.filter_cons_of_pos (by simpa using hgi), List.length_cons, Function.iterate_succ_apply, hbumped, bump2]
    · rw [List.filter_cons_of_neg (by simpa using hgi), tnTrain_chooser_read_ne g l (Ne.symm hgi)]

/-- Settles O51: a counter of two bits is at its bound after three bumps one way (R109 b). -/
theorem tournamentChooserConverges : Obligations.TournamentChooserConverges := by
  intro u g l gi cs hwf hlen
  obtain ⟨-, hbumps, -⟩ := counterAndShifterLaws
  obtain ⟨hup, hdown⟩ := hbumps 2 (u.chooser.read gi) _ hlen
  refine ⟨fun h => ?localRight, fun h => ?globalRight⟩
  case localRight =>
    rw [foldl_tnTrain_chooser_read g l hwf fun co hco hgi => Ctx.onlyRight_true_iff.2 (h co hco hgi)]
    exact BitVec.eq_of_toNat_eq hup
  case globalRight =>
    rw [foldl_tnTrain_chooser_read g l hwf fun co hco hgi => Ctx.onlyRight_false_iff.2 (h co hco hgi)]
    exact BitVec.eq_of_toNat_eq hdown

end Sys2Proof.Machine
end

section
/-! The Bimode unit (`43_bimode.md`): PREDICT and TRAIN in its mode (R171 to R176), the values its chooser can reach (R178), and
the isolation of its direction tables (R179). -/

namespace Sys2Proof.Machine

/-! ## PREDICT -/

theorem pred3_eq_decide (v : Counter3) : pred3 v = decide (4 ≤ v.toNat) := rfl

/-- Settles O29: what every PREDICT does, with the Bimode unit's indices, selection and read-out. -/
theorem predictInBimode : Obligations.PredictInBimode := by
  intro s pc k hinv hm hk
  obtain ⟨t, tag, hexec, htag, hslot, hother, hframe⟩ := execPredict_records hinv (by rw [hm]; rfl) hk pc
  rw [State.unitPredict_bimode hm] at hslot hframe
  exact ⟨t, tag, bmDidx s.bm pc, bmCidx pc, pred3 (s.bm.chooser.read (bmCidx pc).toNat), (bmPredict s.bm pc).1, hexec, htag,
    toNat_and_mask _ _, toNat_and_mask _ _, pred3_eq_decide _, rfl, hslot, hother, hframe⟩

/-! ## One train -/

/-- The selection pointed away from the outcome, and the table it selected predicted wrong: the one case in which R173 moves the
chooser. -/
abbrev Ctx.misled (c : Ctx) (o : Bool) : Prop := c.sel = !o ∧ c.selpred = !o

theorem Ctx.not_misled_iff {c : Ctx} {o : Bool} : ¬ c.misled o ↔ c.sel = o ∨ c.selpred = o := by
  rw [Ctx.misled, not_and_or, Bool.not_eq_not, Bool.not_eq_not]

section
variable (u : Bimode) {c : Ctx} {o : Bool}

/-- A misled chooser moves toward the outcome. -/
theorem bmTrain_chooser_of_misled (h : c.misled o) : (bmTrain u c o).chooser =
    u.chooser.write c.cidx.toNat (bump3 (u.chooser.read c.cidx.toNat) o) := by
  obtain ⟨hsel, hselpred⟩ := h
  rw [bmTrain_chooser, bmTrainChooser, hsel, hselpred]
  cases o <;> rfl

theorem bmTrain_chooser_of_not_misled (h : ¬ c.misled o) : (bmTrain u c o).chooser = u.chooser := by
  rw [bmTrain_chooser, bmTrainChooser]
  rcases Ctx.not_misled_iff.1 h with h | h <;> cases o <;> simp [h]

theorem bmTrain_chooser_read_ne {i : Nat} (h : i ≠ c.cidx.toNat) : (bmTrain u c o).chooser.read i = u.chooser.read i := by
  by_cases hc : c.misled o
  · rw [bmTrain_chooser_of_misled u hc, Table.read_write_ne _ _ h]
  · rw [bmTrain_chooser_of_not_misled u hc]

theorem bmTrain_taken_read_ne {i : Nat} (h : i ≠ c.didx.toNat) : (bmTrain u c o).taken.read i = u.taken.read i := by
  rw [bmTrain_taken]
  split_ifs
  · exact Table.read_write_ne _ _ h
  · rfl

theorem bmTrain_notTaken_read_ne {i : Nat} (h : i ≠ c.didx.toNat) :
    (bmTrain u c o).notTaken.read i = u.notTaken.read i := by
  rw [bmTrain_notTaken]
  split_ifs
  · rfl
  · exact Table.read_write_ne _ _ h

theorem bmTrain_notTaken_of_sel (h : c.sel = true) : (bmTrain u c o).notTaken = u.notTaken := by
  rw [bmTrain_notTaken, if_pos h]

theorem bmTrain_taken_of_not_sel (h : c.sel = false) : (bmTrain u c o).taken = u.taken := by
  rw [bmTrain_taken, if_neg (Bool.not_eq_true _ ▸ h)]

variable {u}

theorem bmTrain_chooser_read_same (hwf : u.chooser.wf) (h : c.misled o) :
    (bmTrain u c o).chooser.read c.cidx.toNat = bump3 (u.chooser.read c.cidx.toNat) o := by
  rw [bmTrain_chooser_of_misled u h, Table.read_write_same hwf]

theorem bmTrain_taken_read_same (hwf : u.taken.wf) (h : c.sel = true) :
    (bmTrain u c o).taken.read c.didx.toNat = bump2 (u.taken.read c.didx.toNat) o := by
  rw [bmTrain_taken, if_pos h, Table.read_write_same hwf]

theorem bmTrain_notTaken_read_same (hwf : u.notTaken.wf) (h : c.sel = false) :
    (bmTrain u c o).notTaken.read c.didx.toNat = bump2 (u.notTaken.read c.didx.toNat) o := by
  rw [bmTrain_notTaken, if_neg (Bool.not_eq_true _ ▸ h), Table.read_write_same hwf]

end

/-! ## TRAIN -/

theorem State.afterTrain_bimode {s : State} (hm : s.mode = .bimode) (o : Bool) (tag : Tag) : s.afterTrain o tag =
    ((s.setBm (bmTrain s.bm (s.slot tag.toNat) o)).writeSlot tag.toNat Ctx.zero).respond .ok := by
  rw [State.afterTrain, State.unitTrain_bimode hm]

/-- Settles O34: the unit's training with the slot's context, table by table, and the slot freed. -/
theorem trainInBimode : Obligations.TrainInBimode := by
  rintro s o tag pc c hinv hm hlt rfl hv hpc
  obtain ⟨hpcb, -, -, htaken, hnotTaken, hchooser⟩ := hinv.tables
  have htrained : (s.afterTrain o tag).bm = bmTrain s.bm (s.slot tag.toNat) o := by rw [State.afterTrain_bimode hm]; rfl
  refine ⟨s.afterTrain o tag, execTrain_ok (by rw [hm]; rfl) (State.slotMatches_iff.2 ⟨hlt, hv, hpc⟩) o,
    fun ho hsel hselpred => ?chooserUp, fun ho hsel hselpred => ?chooserDown, fun h => ?chooserKept,
    fun i hi => ?chooserOthers, fun hsel => ?takenSelected, fun hsel => ?notTakenSelected, fun i hi => ?tableOthers, ?hist,
    State.afterTrain_slot_same hpcb o tag, fun _ hj => State.afterTrain_slot_ne s o hj, ?frame⟩
  case chooserUp => subst ho; rw [htrained, bmTrain_chooser_read_same hchooser ⟨hsel, hselpred⟩]
  case chooserDown => subst ho; rw [htrained, bmTrain_chooser_read_same hchooser ⟨hsel, hselpred⟩]
  case chooserKept => rw [htrained, bmTrain_chooser_of_not_misled _ (Ctx.not_misled_iff.2 h)]
  case chooserOthers => rw [htrained, bmTrain_chooser_read_ne _ hi]
  case takenSelected => rw [htrained]; exact ⟨bmTrain_taken_read_same htaken hsel, bmTrain_notTaken_of_sel _ hsel⟩
  case notTakenSelected => rw [htrained]; exact ⟨bmTrain_notTaken_read_same hnotTaken hsel, bmTrain_taken_of_not_sel _ hsel⟩
  case tableOthers => rw [htrained]; exact ⟨bmTrain_taken_read_ne _ hi, bmTrain_notTaken_read_ne _ hi⟩
  case hist => rw [htrained, bmTrain_hist]; exact toNat_hshift _ o (by decide)
  case frame => rw [State.afterTrain_bimode hm]; rfl

/-! ## The values the chooser can reach (R178) -/

theorem le_bump3_true : ∀ v : Counter3, v ≤ bump3 v true := by decide

theorem bump3_false_le : ∀ v : Counter3, bump3 v false ≤ v := by decide

/-- An increment from a value that selects the not-taken table gives at most 4. -/
theorem bump3_true_le_four : ∀ v : Counter3, pred3 v = false → bump3 v true ≤ 4 := by decide

/-- A decrement from a value that selects the taken table gives at least 3. -/
theorem three_le_bump3_false : ∀ v : Counter3, pred3 v = true → 3 ≤ bump3 v false := by decide

/-- So a value that selected away from the outcome, moved toward it, does not leave the range from `lo` to 4. -/
theorem bump3_between_of_pred3_eq_not {lo v : Counter3} {o : Bool} (hlo : lo ≤ 3) (hv : lo ≤ v ∧ v ≤ 4) (h : pred3 v = !o) :
    lo ≤ bump3 v o ∧ bump3 v o ≤ 4 := by
  obtain ⟨hge, hle⟩ := hv
  cases o with
  | false => exact ⟨BitVec.le_trans hlo (three_le_bump3_false v h), BitVec.le_trans (bump3_false_le v) hle⟩
  | true => exact ⟨BitVec.le_trans hge (le_bump3_true v), bump3_true_le_four v h⟩

/-- Every entry of the table, listed or not, is from `lo` to `hi`. -/
abbrev Table.entriesBetween {n : Nat} (t : Table (BitVec n)) (lo hi : BitVec n) : Prop :=
  (lo ≤ t.fill ∧ t.fill ≤ hi) ∧ ∀ c ∈ t.cells, lo ≤ c.2 ∧ c.2 ≤ hi

section
variable {n : Nat} {t : Table (BitVec n)} {lo hi v : BitVec n}

theorem Table.entriesBetween.read (h : t.entriesBetween lo hi) (i : Nat) : lo ≤ t.read i ∧ t.read i ≤ hi := by
  obtain ⟨hfill, hcells⟩ := h
  rcases Table.read_eq_fill_or_mem t i with hread | hmem
  · rw [hread]; exact hfill
  · exact hcells _ hmem

theorem Table.entriesBetween.write (h : t.entriesBetween lo hi) (hv : lo ≤ v ∧ v ≤ hi) (i : Nat) :
    (t.write i v).entriesBetween lo hi := by
  obtain ⟨hfill, hcells⟩ := h
  exact ⟨hfill, Table.forall_write hcells hv⟩

end

/-- A train keeps the chooser in its range if the recorded selection is what the chooser selects now. -/
theorem bmTrain_chooser_between {u : Bimode} {c : Ctx} {lo : Counter3} (h : u.chooser.entriesBetween lo 4) (hlo : lo ≤ 3)
    (hsel : c.sel = pred3 (u.chooser.read c.cidx.toNat)) (o : Bool) : (bmTrain u c o).chooser.entriesBetween lo 4 := by
  by_cases hc : c.misled o
  · rw [bmTrain_chooser_of_misled u hc]
    exact h.write (bump3_between_of_pred3_eq_not hlo (h.read _) (hsel.symm.trans hc.1)) _
  · rw [bmTrain_chooser_of_not_misled u hc]
    exact h

section
variable {s : State}

theorem Params.bcInit_le_three {p : Params} (h : p.legal) : p.bcInit ≤ 3 := by
  obtain ⟨-, -, -, -, -, hbc⟩ := h
  exact hbc

theorem State.chooserBetween_of_mode_ne (h : s.mode ≠ .bimode) : s.chooserBetween := fun hm => absurd hm h

theorem State.chooserBetween_initBimode (hp : s.params.legal) :
    ((s.clearPcb.configure .bimode 11 0 11).setBm (bmInit s.params)).chooserBetween := fun _ =>
  ⟨⟨BitVec.le_refl _, BitVec.le_trans (Params.bcInit_le_three hp) (by decide)⟩, List.forall_mem_nil _⟩

theorem State.chooserBetween.afterTrain (h : s.chooserBetween) (hp : s.params.legal) {tag : Tag} {pc : Pc}
    (hfresh : s.slotFresh tag.toNat) (hm : s.slotMatches tag pc = true) (o : Bool) : (s.afterTrain o tag).chooserBetween := by
  intro hmode
  replace hmode : s.mode = .bimode := (s.unitTrain_mode (s.slot tag.toNat) o).symm.trans hmode
  obtain ⟨-, hv, -⟩ := State.slotMatches_iff.1 hm
  obtain ⟨-, -, -, hbimode⟩ := recordedContextEqualsRecomputation s tag.toNat _ hfresh rfl hv
  obtain ⟨-, -, hsel, -⟩ := hbimode hmode
  rw [State.afterTrain_bimode hmode]
  exact bmTrain_chooser_between (h hmode) (Params.bcInit_le_three hp) hsel o

/-- The one slot's number is 0. -/
theorem State.tag_eq_zero_of_slotMatches (hseq : s.params.wSeq = 0) {tag : Tag} {pc : Pc} (hm : s.slotMatches tag pc = true) :
    tag.toNat = 0 := by
  obtain ⟨hlt, -, -⟩ := State.slotMatches_iff.1 hm
  rwa [Params.nslot, hseq, Nat.pow_zero, Nat.lt_one_iff] at hlt

/-- Only INIT.BIMODE and a TRAIN in BIMODE write the chooser that is active after the command. -/
theorem exec_keeps_chooserBetween (hp : s.params.legal) (hfresh : s.freshContext) (h : s.chooserBetween) (i : Instr) :
    ∃ t, exec i s = .next t ∧ t.chooserBetween := by
  obtain ⟨hseq, hfresh⟩ := hfresh
  exact exec_elim s (motive := fun _ t => t.chooserBetween) (i := i)
    (away := fun _ _ _ => h)
    (nop := h)
    (static := fun _ _ _ => State.chooserBetween_of_mode_ne nofun)
    (gshare := fun _ _ _ _ => State.chooserBetween_of_mode_ne nofun)
    (tournament := fun _ _ _ _ _ _ => State.chooserBetween_of_mode_ne nofun)
    (bimode := fun _ _ _ => State.chooserBetween_initBimode hp)
    (fail := fun _ _ => State.chooserBetween_of_mode_ne nofun)
    (predict := fun _ _ _ _ => h)
    (train := fun o _ _ _ hm => h.afterTrain hp (by rwa [State.tag_eq_zero_of_slotMatches hseq hm]) hm o)

end

/-- Settles O48: with one slot the selection a TRAIN goes by is the chooser's present one, so R178's bounds on a bump hold. -/
theorem bimodeChooserStaysBetweenInitAndFour : Obligations.BimodeChooserStaysBetweenInitAndFour := by
  intro s t hinv hfresh h hstep
  rcases step_eq_next_cases hstep with rfl | ⟨w, rest, -, hexec⟩
  · exact h
  · exact of_exec_eq_next (exec_keeps_chooserBetween (s := s.dequeue rest) hinv.params hfresh h _) hexec

/-! ## Isolation of the direction tables (R179) -/

/-- What each train of a run keeps in every unit, the run keeps. -/
theorem foldl_bmTrain_keeps {α : Type} (f : Bimode → α) {cs : List (Ctx × Bool)}
    (h : ∀ co ∈ cs, ∀ v, f (bmTrain v co.1 co.2) = f v) (u : Bimode) :
    f (cs.foldl (fun v co => bmTrain v co.1 co.2) u) = f u := by
  induction cs generalizing u with
  | nil => rfl
  | cons co cs ih =>
    obtain ⟨hco, hcs⟩ := List.forall_mem_cons.1 h
    rw [List.foldl_cons, ih hcs, hco]

/-- Settles O52: no single train writes the table it did not select. -/
theorem bimodeTablesAreIsolated : Obligations.BimodeTablesAreIsolated := fun u _ =>
  ⟨fun h => foldl_bmTrain_keeps Bimode.notTaken (fun co hco v => bmTrain_notTaken_of_sel v (h co hco)) u,
    fun h => foldl_bmTrain_keeps Bimode.taken (fun co hco v => bmTrain_taken_of_not_sel v (h co hco)) u⟩

end Sys2Proof.Machine
end

section
/-! The mux (`44_mux.md`): NOP and the five INITs (R201 to R207), where PREDICT and TRAIN are turned away (R208, R210), the free
slot (R209), and the Static scheme (R211, R212). -/

namespace Sys2Proof.Machine

/-! ## NOP and INIT -/

/-- Settles O17: NOP does nothing but respond, with or without a reserved bit. -/
theorem nopOnlyResponds : Obligations.NopOnlyResponds := by
  intro s resv
  by_cases h : resv = 0
  · rw [h]; exact execNop_ok s
  · rw [if_neg h]; exact execNop_bad h s

/-- Settles O18: the four updates that INIT.STATIC is made of. -/
theorem initStaticSelectsStatic : Obligations.InitStaticSelectsStatic := by
  intro s g l p resv
  refine ⟨fun h => execInitStatic_bad g l p h s, ?accepted⟩
  case accepted =>
    rintro rfl
    exact ⟨_, execInitStatic_ok g l p s, s.slot_clearPcb, rfl⟩

/-- What an INIT that fails leaves behind: every slot cleared, MODE ERROR, the widths 0, and no unit changed (R206, R207). -/
theorem exec_initFail {i : Instr} {s : State} (h : exec i s = .next s.clearPcb.initFail) :
    ∃ t : State, exec i s = .next t ∧ (∀ k, t.slot k = Ctx.zero) ∧
      t = { s with mode := .error, cfgG := 0, cfgL := 0, cfgP := 0, pcb := t.pcb, responses := 3 :: s.responses } :=
  ⟨_, h, s.slot_clearPcb, rfl⟩

/-- Settles O19: the width decides between the Gshare unit's initial state and the failed INIT. -/
theorem initGshareSelectsGshare : Obligations.InitGshareSelectsGshare := by
  intro s g l p resv
  refine ⟨fun h => execInitGshare_bad g l p h s, ?accepted, ?failed⟩
  case accepted =>
    rintro rfl h1 hmax
    exact ⟨_, execInitGshare_ok (validW_iff.2 ⟨h1, hmax⟩) l p, Table.read_filled _, rfl, s.slot_clearPcb, rfl⟩
  case failed =>
    rintro rfl hg
    exact exec_initFail (execInitGshare_fail (validW_eq_false_iff.2 hg) l p)

/-- One width that is not valid fails the check of all three. -/
theorem validW_and_eq_false {q : Params} {g l p : Width} (h : ∃ w ∈ [g, l, p], w.toNat = 0 ∨ q.wIdxMax < w.toNat) :
    (validW q g && validW q l && validW q p) = false := by
  obtain ⟨w, hmem, hw⟩ := h
  have hinvalid : validW q w = false := validW_eq_false_iff.2 hw
  simp only [List.mem_cons, List.not_mem_nil, or_false] at hmem
  rcases hmem with rfl | rfl | rfl <;> simp [hinvalid]

/-- Settles O20: the three widths decide between the Tournament unit's initial state and the failed INIT. -/
theorem initTournamentSelectsTournament : Obligations.InitTournamentSelectsTournament := by
  intro s g l p resv
  refine ⟨fun h => execInitTournament_bad g l p h s, ?accepted, ?failed⟩
  case accepted =>
    rintro rfl hwidths
    have hvalid (w : Width) (hw : w ∈ [g, l, p]) : validW s.params w = true := validW_iff.2 (hwidths w hw)
    exact ⟨_, execInitTournament_ok (hvalid g (by simp)) (hvalid l (by simp)) (hvalid p (by simp)), Table.read_filled _,
      Table.read_filled _, Table.read_filled _, Table.read_filled _, rfl, s.slot_clearPcb, rfl⟩
  case failed =>
    rintro rfl hwidth
    exact exec_initFail (execInitTournament_fail (validW_and_eq_false hwidth))

/-- Settles O21: the fixed widths and the Bimode unit's initial state. -/
theorem initBimodeSelectsBimode : Obligations.InitBimodeSelectsBimode := by
  intro s g l p resv
  refine ⟨fun h => execInitBimode_bad g l p h s, ?accepted⟩
  case accepted =>
    rintro rfl
    exact ⟨_, execInitBimode_ok g l p s, Table.read_filled _, Table.read_filled _, Table.read_filled _, rfl, s.slot_clearPcb, rfl⟩

/-- Settles O22: INIT.INVALID is the failed INIT. -/
theorem initInvalidEntersError : Obligations.InitInvalidEntersError := by
  intro s scheme g l p resv
  refine ⟨fun h => execInitInvalid_bad scheme g l p h s, ?failed⟩
  case failed =>
    rintro rfl
    exact exec_initFail (execInitInvalid_fail scheme g l p s)

/-! ## Where PREDICT and TRAIN are turned away -/

/-- Settles O24: each condition of R243 that turns a PREDICT away, with its status. -/
theorem predictIsTurnedAway : Obligations.PredictIsTurnedAway := by
  intro s pc resv
  refine ⟨fun h => execPredict_bad pc h s, ?unconfigured, ?error, ?busy⟩
  case unconfigured =>
    rintro rfl hm
    exact execPredict_refused (st := .unconfigured) (by rw [hm]; rfl) pc
  case error =>
    rintro rfl hm
    exact execPredict_refused (st := .cfgError) (by rw [hm]; rfl) pc
  case busy =>
    rintro rfl hu he hfull
    exact execPredict_busy (Mode.refusal_eq_none_iff.2 ⟨hu, he⟩) (State.freeSlot_eq_none.2 hfull) pc

/-- Settles O30: each condition of R243 that turns a TRAIN away, with its status; the last is the failed protocol check. -/
theorem trainIsTurnedAway : Obligations.TrainIsTurnedAway := by
  intro s o tag pc lo hi
  refine ⟨fun h => execTrain_bad o tag pc h s, ?unconfigured, ?error, ?protocol⟩
  case unconfigured =>
    rintro rfl rfl hm
    exact execTrain_refused (st := .unconfigured) (by rw [hm]; rfl) o tag pc
  case error =>
    rintro rfl rfl hm
    exact execTrain_refused (st := .cfgError) (by rw [hm]; rfl) o tag pc
  case protocol =>
    rintro rfl rfl hu he hno
    exact execTrain_protocol (Mode.refusal_eq_none_iff.2 ⟨hu, he⟩) (State.slotMatches_eq_false_iff.2 hno) o

/-! ## The free slot -/

/-- Settles O25: the search through the slots from 0 up finds the least one, or none. -/
theorem freeSlotIsTheLeast : Obligations.FreeSlotIsTheLeast := fun _ _ => ⟨State.freeSlot_eq_some, State.freeSlot_eq_none⟩

/-! ## The Static scheme -/

/-- Settles O26: what every PREDICT does, with taken and the all-zero context of the Static scheme. -/
theorem predictInStatic : Obligations.PredictInStatic := by
  intro s pc k hinv hm hk
  have hrecords := execPredict_records hinv (by rw [hm]; rfl) hk pc
  rwa [State.unitPredict_static hm] at hrecords

/-- Settles O31: the Static scheme has no unit to train, so only the slot is freed. -/
theorem trainInStatic : Obligations.TrainInStatic := by
  intro s o tag pc hinv hm hlt hv hpc
  obtain ⟨hwf, -⟩ := hinv.tables
  have hunit : s.unitTrain (s.slot tag.toNat) o = s := State.unitTrain_of_noUnit (.inr (.inr hm)) _ o
  refine ⟨s.afterTrain o tag, execTrain_ok (by rw [hm]; rfl) (State.slotMatches_iff.2 ⟨hlt, hv, hpc⟩) o,
    State.afterTrain_slot_same hwf o tag, fun _ hj => State.afterTrain_slot_ne s o hj, ?frame⟩
  case frame => rw [State.afterTrain, hunit]; rfl

end Sys2Proof.Machine
end

section
/-! Exceptions (`60_exceptions.md`): what an error response changes, which status is reported, and the state between requests
(spec R242, R243, R253). -/

namespace Sys2Proof.Machine

/-- Settles O9: the idle step. -/
theorem withoutRequestStateStays : Obligations.WithoutRequestStateStays := fun s h => by
  rw [step, h]

/-! ## What an error response changes (R242) -/

/-- `t` is `s` but for the response `r`, or it is what an INIT that fails leaves behind (R207). -/
abbrev State.RespondedOrInitFailed (s : State) (i : Instr) (t : State) (r : Response) : Prop :=
  t = { s with responses := r :: s.responses } ∨
  (r = 3 ∧ rowOf i ∈ [rowInitGshare, rowInitTournament, rowInitInvalid] ∧ (∀ k, t.slot k = Ctx.zero) ∧
    t = { s with mode := .error, cfgG := 0, cfgL := 0, cfgP := 0, pcb := t.pcb, responses := r :: s.responses })

/-- The frame of R242, for the response that `t` has more than `s`: of an OK response it says nothing. -/
def State.ErrorFrame (s : State) (i : Instr) (t : State) : Prop :=
  ∀ r : Response, t.responses = r :: s.responses → responseStatus r ≠ 0 → s.RespondedOrInitFailed i t r

section
variable {s t : State} {i : Instr}

theorem State.ErrorFrame.of_ok {taken : Bool} {tag : Tag} (h : t.responses = responseWord .ok taken tag :: s.responses) :
    s.ErrorFrame i t := by
  intro r hr hstatus
  obtain rfl : r = responseWord .ok taken tag := List.head_eq_of_cons_eq (hr.symm.trans h)
  exact absurd (responseStatus_responseWord .ok taken tag) hstatus

theorem State.ErrorFrame.of_respond (st : Status) : s.ErrorFrame i (s.respond st) := by
  intro r hr _
  obtain rfl : responseWord st false 0 = r := List.head_eq_of_cons_eq hr
  exact .inl rfl

theorem State.ErrorFrame.of_initFail (hi : rowOf i ∈ [rowInitGshare, rowInitTournament, rowInitInvalid]) :
    s.ErrorFrame i s.clearPcb.initFail := by
  intro r hr _
  obtain rfl : responseWord .cfgError false 0 = r := List.head_eq_of_cons_eq hr
  exact .inr ⟨rfl, hi, s.slot_clearPcb, rfl⟩

end

theorem State.afterTrain_responses (s : State) (o : Bool) (tag : Tag) :
    (s.afterTrain o tag).responses = responseWord .ok false 0 :: s.responses := by
  rw [State.respond_responses, State.writeSlot_responses, State.unitTrain_responses]

theorem exec_errorFrame (s : State) (i : Instr) : ∃ t, exec i s = .next t ∧ s.ErrorFrame i t :=
  exec_elim s (motive := s.ErrorFrame) (i := i)
    (away := fun _ st _ => .of_respond st)
    (nop := .of_respond .ok)
    (static := fun _ _ _ => .of_ok rfl)
    (gshare := fun _ _ _ _ => .of_ok rfl)
    (tournament := fun _ _ _ _ _ _ => .of_ok rfl)
    (bimode := fun _ _ _ => .of_ok rfl)
    (fail := fun _ hi => .of_initFail hi)
    (predict := fun _ _ _ _ => .of_ok rfl)
    (train := fun o tag _ _ _ => .of_ok (s.afterTrain_responses o tag))

/-- Settles O36: the only error responses of `exec_elim` are those of a command turned away and of a failed INIT. -/
theorem errorsChangeNothingButFailedInit : Obligations.ErrorsChangeNothingButFailedInit := fun i s _ r ht =>
  of_exec_eq_next (exec_errorFrame s i) ht r

/-! ## Which status is reported (R243) -/

/-- The command `i` in the state `s` answers a next state, with a response of the status `c`. -/
def State.AnswersStatus (s : State) (i : Instr) (c : BitVec 3) : Prop :=
  ∃ (t : State) (r : Response), exec i s = .next t ∧ t.responses = r :: s.responses ∧ responseStatus r = c

section
variable {s t : State} {i : Instr} {c : BitVec 3}

theorem State.AnswersStatus.of_ok {taken : Bool} {tag : Tag} (h : exec i s = .next t)
    (hr : t.responses = responseWord .ok taken tag :: s.responses) : s.AnswersStatus i 0 :=
  ⟨t, _, h, hr, responseStatus_responseWord .ok taken tag⟩

theorem State.AnswersStatus.of_respond {st : Status} (h : exec i s = .next (s.respond st)) : s.AnswersStatus i st.code :=
  ⟨_, _, h, rfl, responseStatus_responseWord st false 0⟩

theorem State.AnswersStatus.of_initFail (h : exec i s = .next s.clearPcb.initFail) : s.AnswersStatus i 3 :=
  ⟨_, _, h, rfl, responseStatus_responseWord .cfgError false 0⟩

/-- The first condition of R243, that a reserved bit is set. -/
theorem State.AnswersStatus.ite_reserved {p : Prop} [Decidable p] (reserved : p → exec i s = .next (s.respond .badRequest))
    (clear : ¬p → s.AnswersStatus i c) : s.AnswersStatus i (if p then 1 else c) := by
  split_ifs with h
  · exact .of_respond (reserved h)
  · exact clear h

/-- The conditions of R243 on the mode, for the commands that need an active unit. -/
theorem State.AnswersStatus.ite_mode (refused : ∀ {st}, s.mode.refusal = some st → exec i s = .next (s.respond st))
    (active : s.mode.refusal = none → s.AnswersStatus i c) :
    s.AnswersStatus i (if s.mode = .unconfigured then 2 else if s.mode = .error then 3 else c) := by
  split_ifs with hunconfigured herror
  · exact .of_respond (refused (by rw [hunconfigured]; rfl))
  · exact .of_respond (refused (by rw [herror]; rfl))
  · exact active (Mode.refusal_eq_none_iff.2 ⟨hunconfigured, herror⟩)

end

/-- Settles O37: each branch of the order of R243 is one case of the command. -/
theorem statusIsTheFirstCondition : Obligations.StatusIsTheFirstCondition := by
  intro i s
  change s.AnswersStatus i _
  cases i with
  | nop resv =>
    refine .ite_reserved (fun h => execNop_bad h s) fun h => ?_
    obtain rfl := not_not.1 h
    exact .of_ok (execNop_ok s) rfl
  | initStatic g l p resv =>
    refine .ite_reserved (fun h => execInitStatic_bad g l p h s) fun h => ?_
    obtain rfl := not_not.1 h
    exact .of_ok (execInitStatic_ok g l p s) rfl
  | initBimode g l p resv =>
    refine .ite_reserved (fun h => execInitBimode_bad g l p h s) fun h => ?_
    obtain rfl := not_not.1 h
    exact .of_ok (execInitBimode_ok g l p s) rfl
  | initGshare g l p resv =>
    refine .ite_reserved (fun h => execInitGshare_bad g l p h s) fun h => ?_
    obtain rfl := not_not.1 h
    split_ifs with hwidth
    · exact .of_initFail (execInitGshare_fail (validW_eq_false_iff.2 hwidth) l p)
    · exact .of_ok (execInitGshare_ok (Bool.eq_true_of_not_eq_false (mt validW_eq_false_iff.1 hwidth)) l p) rfl
  | initTournament g l p resv =>
    refine .ite_reserved (fun h => execInitTournament_bad g l p h s) fun h => ?_
    obtain rfl := not_not.1 h
    split_ifs with hwidth
    · exact .of_initFail (execInitTournament_fail (validW_and_eq_false hwidth))
    · have hvalid (w : Width) (hw : w ∈ [g, l, p]) : validW s.params w = true :=
        Bool.eq_true_of_not_eq_false fun hinvalid => hwidth ⟨w, hw, validW_eq_false_iff.1 hinvalid⟩
      exact .of_ok (execInitTournament_ok (hvalid g (by simp)) (hvalid l (by simp)) (hvalid p (by simp))) rfl
  | initInvalid scheme g l p resv =>
    refine .ite_reserved (fun h => execInitInvalid_bad scheme g l p h s) fun h => ?_
    obtain rfl := not_not.1 h
    exact .of_initFail (execInitInvalid_fail scheme g l p s)
  | predict pc resv =>
    refine .ite_reserved (fun h => execPredict_bad pc h s) fun h => ?_
    obtain rfl := not_not.1 h
    refine .ite_mode (fun hst => execPredict_refused hst pc) fun hmode => ?_
    split_ifs with hfull
    · exact .of_respond (execPredict_busy hmode (State.freeSlot_eq_none.2 hfull) pc)
    · obtain ⟨k, hk⟩ := Option.ne_none_iff_exists'.1 (mt State.freeSlot_eq_none.1 hfull)
      exact .of_ok (execPredict_ok hmode hk pc) rfl
  | train o tag pc lo hi =>
    refine .ite_reserved (fun h => execTrain_bad o tag pc h s) fun h => ?_
    obtain ⟨rfl, rfl⟩ : lo = 0 ∧ hi = 0 := by simpa using h
    refine .ite_mode (fun hst => execTrain_refused hst o tag pc) fun hmode => ?_
    split_ifs with hno
    · exact .of_respond (execTrain_protocol hmode (State.slotMatches_eq_false_iff.2 hno) o)
    · have hmatch : s.slotMatches tag pc = true := Bool.eq_true_of_not_eq_false (mt State.slotMatches_eq_false_iff.1 hno)
      exact .of_ok (execTrain_ok hmode hmatch o) (s.afterTrain_responses o tag)

end Sys2Proof.Machine
end

section
/-! What reset leaves unspecified and inactive units hold is unobservable (spec R272): two states that differ only in it
run every command alike, so every step and every run. -/

namespace Sys2Proof.Machine

/-! ## The two states over the updates -/

section
variable {s t : State} (h : s.sameButInactive t)
include h

theorem State.sameButInactive.params_eq : s.params = t.params := by
  obtain ⟨hparams, -⟩ := h
  exact hparams

theorem State.sameButInactive.mode_eq : s.mode = t.mode := by
  obtain ⟨-, hmode, -⟩ := h
  exact hmode

theorem State.sameButInactive.slot_eq (k : Nat) : s.slot k = t.slot k := by
  obtain ⟨-, -, -, -, -, hpcb, -⟩ := h
  rw [State.slot, State.slot, hpcb]

theorem State.sameButInactive.pending_eq : s.pending = t.pending := by
  obtain ⟨-, -, -, -, -, -, hpending, -⟩ := h
  exact hpending

theorem State.sameButInactive.responses_eq : s.responses = t.responses := by
  obtain ⟨-, -, -, -, -, -, -, hresponses, -⟩ := h
  exact hresponses

theorem State.sameButInactive.refusal_eq : s.mode.refusal = t.mode.refusal := by rw [h.mode_eq]

theorem State.sameButInactive.freeSlot_eq : s.freeSlot = t.freeSlot := by
  simp only [State.freeSlot, h.params_eq, h.slot_eq]

theorem State.sameButInactive.slotMatches_eq (tag : Tag) (pc : Pc) : s.slotMatches tag pc = t.slotMatches tag pc := by
  simp only [State.slotMatches, h.params_eq, h.slot_eq]

theorem State.sameButInactive.respondWith (st : Status) (taken : Bool) (tag : Tag) :
    (s.respondWith st taken tag).sameButInactive (t.respondWith st taken tag) := by
  obtain ⟨hparams, hmode, hg, hl, hp, hpcb, hpending, hresponses, hunits⟩ := h
  exact ⟨hparams, hmode, hg, hl, hp, hpcb, hpending, congrArg (responseWord st taken tag :: ·) hresponses, hunits⟩

theorem State.sameButInactive.respond (st : Status) : (s.respond st).sameButInactive (t.respond st) :=
  h.respondWith st false 0

theorem State.sameButInactive.dequeue (rest : List Request) : (s.dequeue rest).sameButInactive (t.dequeue rest) := by
  obtain ⟨hparams, hmode, hg, hl, hp, hpcb, -, hresponses, hunits⟩ := h
  exact ⟨hparams, hmode, hg, hl, hp, hpcb, rfl, hresponses, hunits⟩

theorem State.sameButInactive.writeSlot (k : Nat) (c : Ctx) : (s.writeSlot k c).sameButInactive (t.writeSlot k c) := by
  obtain ⟨hparams, hmode, hg, hl, hp, hpcb, hrest⟩ := h
  exact ⟨hparams, hmode, hg, hl, hp, congrArg (Table.write · k c) hpcb, hrest⟩

theorem State.sameButInactive.setGs (u : Gshare) : (s.setGs u).sameButInactive (t.setGs u) := by
  obtain ⟨hparams, hmode, hg, hl, hp, hpcb, hpending, hresponses, -, htn, hbm⟩ := h
  exact ⟨hparams, hmode, hg, hl, hp, hpcb, hpending, hresponses, fun _ => rfl, htn, hbm⟩

theorem State.sameButInactive.setTn (u : Tournament) : (s.setTn u).sameButInactive (t.setTn u) := by
  obtain ⟨hparams, hmode, hg, hl, hp, hpcb, hpending, hresponses, hgs, -, hbm⟩ := h
  exact ⟨hparams, hmode, hg, hl, hp, hpcb, hpending, hresponses, hgs, fun _ => rfl, hbm⟩

theorem State.sameButInactive.setBm (u : Bimode) : (s.setBm u).sameButInactive (t.setBm u) := by
  obtain ⟨hparams, hmode, hg, hl, hp, hpcb, hpending, hresponses, hgs, htn, -⟩ := h
  exact ⟨hparams, hmode, hg, hl, hp, hpcb, hpending, hresponses, hgs, htn, fun _ => rfl⟩

/-- A mode may be selected in both states where they agree on the unit it makes active. -/
theorem State.sameButInactive.select (m : Mode) (g l p : Width) (hgs : m = .gshare → s.gs = t.gs)
    (htn : m = .tournament → s.tn = t.tn) (hbm : m = .bimode → s.bm = t.bm) :
    (s.clearPcb.configure m g l p).sameButInactive (t.clearPcb.configure m g l p) :=
  ⟨h.params_eq, rfl, rfl, rfl, rfl, rfl, h.pending_eq, h.responses_eq, hgs, htn, hbm⟩

/-! ## PREDICT and TRAIN reach the active unit only (R200) -/

theorem State.sameButInactive.unitPredict_eq (pc : Pc) : s.unitPredict pc = t.unitPredict pc := by
  obtain ⟨-, hmode, hg, hl, hp, -, -, -, hgs, htn, hbm⟩ := h
  cases hm : s.mode with
  | unconfigured => rw [State.unitPredict, State.unitPredict, ← hmode, hm]
  | error => rw [State.unitPredict, State.unitPredict, ← hmode, hm]
  | static => rw [State.unitPredict_static hm, State.unitPredict_static (hmode ▸ hm)]
  | gshare =>
    rw [State.unitPredict_gshare hm, State.unitPredict_gshare (hmode ▸ hm), hgs hm, State.widthG, State.widthG, hg]
  | tournament =>
    rw [State.unitPredict_tournament hm, State.unitPredict_tournament (hmode ▸ hm), htn hm, State.widthG, State.widthG, hg,
      State.widthL, State.widthL, hl, State.widthP, State.widthP, hp]
  | bimode => rw [State.unitPredict_bimode hm, State.unitPredict_bimode (hmode ▸ hm), hbm hm]

theorem State.sameButInactive.unitTrain (c : Ctx) (o : Bool) : (s.unitTrain c o).sameButInactive (t.unitTrain c o) := by
  have hsame := h
  obtain ⟨-, hmode, hg, hl, -, -, -, -, hgs, htn, hbm⟩ := h
  have idle (hs : s.noUnit) : (s.unitTrain c o).sameButInactive (t.unitTrain c o) := by
    rw [State.unitTrain_of_noUnit hs, State.unitTrain_of_noUnit (s := t) (by rwa [State.noUnit, ← hmode])]
    exact hsame
  cases hm : s.mode with
  | unconfigured => exact idle (.inl hm)
  | error => exact idle (.inr (.inl hm))
  | static => exact idle (.inr (.inr hm))
  | gshare =>
    rw [State.unitTrain_gshare hm, State.unitTrain_gshare (hmode ▸ hm), hgs hm, State.widthG, State.widthG, hg]
    exact hsame.setGs _
  | tournament =>
    rw [State.unitTrain_tournament hm, State.unitTrain_tournament (hmode ▸ hm), htn hm, State.widthG, State.widthG, hg,
      State.widthL, State.widthL, hl]
    exact hsame.setTn _
  | bimode =>
    rw [State.unitTrain_bimode hm, State.unitTrain_bimode (hmode ▸ hm), hbm hm]
    exact hsame.setBm _

theorem State.sameButInactive.afterPredict (pc : Pc) (k : Nat) :
    (s.afterPredict pc k).sameButInactive (t.afterPredict pc k) := by
  rw [State.afterPredict, State.afterPredict, h.unitPredict_eq]
  exact (h.writeSlot k _).respondWith _ _ _

theorem State.sameButInactive.afterTrain (o : Bool) (tag : Tag) :
    (s.afterTrain o tag).sameButInactive (t.afterTrain o tag) := by
  rw [State.afterTrain, State.afterTrain, h.slot_eq]
  exact ((h.unitTrain _ o).writeSlot _ _).respond _

end

/-! ## The two states over a command, a step and a run -/

/-- Both outcomes are next states, which differ only in units that are not active. -/
def BothNextSame (a b : Host.Outcome State Fault Refusal) : Prop :=
  ∃ s t : State, a = .next s ∧ b = .next t ∧ s.sameButInactive t

section
variable {s t : State}

/-- What decides how a command runs is the same in both states: the widths it brings, the mode and the slots. An INIT
of a scheme writes the whole unit before anything reads it. -/
theorem State.sameButInactive.exec_legal (h : s.sameButInactive t) {i : Instr} (hlegal : i.legal = true) :
    BothNextSame (exec i s) (exec i t) := by
  have hfail : s.clearPcb.initFail.sameButInactive t.clearPcb.initFail :=
    (h.select .error 0 0 0 nofun nofun nofun).respond .cfgError
  have hparams := h.params_eq
  cases i with
  | nop resv =>
    obtain rfl : resv = 0 := eq_of_beq hlegal
    exact ⟨_, _, execNop_ok s, execNop_ok t, h.respond .ok⟩
  | initStatic g l p resv =>
    obtain rfl : resv = 0 := eq_of_beq hlegal
    exact ⟨_, _, execInitStatic_ok g l p s, execInitStatic_ok g l p t, (h.select .static 0 0 0 nofun nofun nofun).respond .ok⟩
  | initGshare g l p resv =>
    obtain rfl : resv = 0 := eq_of_beq hlegal
    cases hg : validW s.params g with
    | true =>
      exact ⟨_, _, execInitGshare_ok hg l p, execInitGshare_ok (hparams ▸ hg) l p,
        ((h.setGs gsInit).select .gshare g 0 0 (fun _ => rfl) nofun nofun).respond .ok⟩
    | false => exact ⟨_, _, execInitGshare_fail hg l p, execInitGshare_fail (hparams ▸ hg) l p, hfail⟩
  | initTournament g l p resv =>
    obtain rfl : resv = 0 := eq_of_beq hlegal
    cases hv : validW s.params g && validW s.params l && validW s.params p with
    | true =>
      obtain ⟨⟨hg, hl⟩, hp⟩ : (validW s.params g = true ∧ validW s.params l = true) ∧ validW s.params p = true := by
        simpa using hv
      refine ⟨_, _, execInitTournament_ok hg hl hp,
        execInitTournament_ok (hparams ▸ hg) (hparams ▸ hl) (hparams ▸ hp), ?_⟩
      rw [← hparams]
      exact ((h.setTn (tnInit s.params)).select .tournament g l p nofun (fun _ => rfl) nofun).respond .ok
    | false => exact ⟨_, _, execInitTournament_fail hv, execInitTournament_fail (hparams ▸ hv), hfail⟩
  | initBimode g l p resv =>
    obtain rfl : resv = 0 := eq_of_beq hlegal
    refine ⟨_, _, execInitBimode_ok g l p s, execInitBimode_ok g l p t, ?_⟩
    rw [← hparams]
    exact ((h.setBm (bmInit s.params)).select .bimode 11 0 11 nofun nofun (fun _ => rfl)).respond .ok
  | initInvalid scheme g l p resv =>
    obtain rfl : resv = 0 := eq_of_beq hlegal
    exact ⟨_, _, execInitInvalid_fail scheme g l p s, execInitInvalid_fail scheme g l p t, hfail⟩
  | predict pc resv =>
    obtain rfl : resv = 0 := eq_of_beq hlegal
    cases hr : s.mode.refusal with
    | some st => exact ⟨_, _, execPredict_refused hr pc, execPredict_refused (h.refusal_eq ▸ hr) pc, h.respond st⟩
    | none =>
      have hr' : t.mode.refusal = none := h.refusal_eq ▸ hr
      cases hk : s.freeSlot with
      | none => exact ⟨_, _, execPredict_busy hr hk pc, execPredict_busy hr' (h.freeSlot_eq ▸ hk) pc, h.respond .busy⟩
      | some k => exact ⟨_, _, execPredict_ok hr hk pc, execPredict_ok hr' (h.freeSlot_eq ▸ hk) pc, h.afterPredict pc k⟩
  | train o tag pc lo hi =>
    obtain ⟨rfl, rfl⟩ : lo = 0 ∧ hi = 0 := by simpa [Instr.legal] using hlegal
    cases hr : s.mode.refusal with
    | some st =>
      exact ⟨_, _, execTrain_refused hr o tag pc, execTrain_refused (h.refusal_eq ▸ hr) o tag pc, h.respond st⟩
    | none =>
      have hr' : t.mode.refusal = none := h.refusal_eq ▸ hr
      have hmatch := h.slotMatches_eq tag pc
      cases hm : s.slotMatches tag pc with
      | true => exact ⟨_, _, execTrain_ok hr hm o, execTrain_ok hr' (hmatch ▸ hm) o, h.afterTrain o tag⟩
      | false =>
        exact ⟨_, _, execTrain_protocol hr hm o, execTrain_protocol hr' (hmatch ▸ hm) o, h.respond .protocolError⟩

theorem State.sameButInactive.exec (h : s.sameButInactive t) (i : Instr) : BothNextSame (exec i s) (exec i t) := by
  cases hlegal : i.legal with
  | true => exact h.exec_legal hlegal
  | false => exact ⟨_, _, exec_of_not_legal hlegal s, exec_of_not_legal hlegal t, h.respond .badRequest⟩

theorem State.sameButInactive.step (h : s.sameButInactive t) : BothNextSame (step s) (step t) := by
  cases hp : s.pending with
  | nil => exact ⟨s, t, withoutRequestStateStays s hp, withoutRequestStateStays t (h.pending_eq ▸ hp), h⟩
  | cons w rest =>
    rw [step_of_pending_cons hp, step_of_pending_cons (h.pending_eq ▸ hp)]
    exact (h.dequeue rest).exec (decode w)

theorem run_succ_of_step (n : Nat) (h : step s = .next t) :
    Host.Core.run Sys2Proof.core (n + 1) s = Host.Core.run Sys2Proof.core n t := by
  simp only [Host.Core.run, show Sys2Proof.core.step s = .next t from h]

theorem State.sameButInactive.run (h : s.sameButInactive t) (n : Nat) :
    BothNextSame (Host.Core.run Sys2Proof.core n s) (Host.Core.run Sys2Proof.core n t) := by
  induction n generalizing s t with
  | zero => exact ⟨s, t, rfl, rfl, h⟩
  | succ n ih =>
    obtain ⟨s', t', hs, ht, h'⟩ := h.step
    rw [run_succ_of_step n hs, run_succ_of_step n ht]
    exact ih h'

end

/-- Settles O49: the relation is kept by every run, and the responses are part of it. -/
theorem unspecifiedContentsAreUnobservable : Obligations.UnspecifiedContentsAreUnobservable := by
  intro n s t h
  obtain ⟨s', t', hs, ht, h'⟩ := h.run n
  exact ⟨s', t', hs, ht, h', h'.responses_eq⟩

end Sys2Proof.Machine
end

section
/-! Reset, the first request after it, and what an INIT discards (spec R270, R271, R277). -/

namespace Sys2Proof.Machine

/-! ## After a successful INIT (R277) -/

/-- Where no prediction is outstanding, no TRAIN finds one. -/
theorem State.slotMatches_of_cleared {s : State} (h : s.pcb = Table.filled Ctx.zero) (tag : Tag) (pc : Pc) :
    s.slotMatches tag pc = false := by
  have hzero : s.slot tag.toNat = Ctx.zero := by rw [State.slot, h, Table.read_filled]
  exact State.slotMatches_eq_false_iff.2 (.inr (.inl (by rw [hzero]; rfl)))

theorem status_eq_ok_of_responseWord_eq_zero {st : Status} {taken : Bool} {tag : Tag} (h : responseWord st taken tag = 0) :
    st = .ok :=
  Status.code_eq_zero_iff.1 ((responseStatus_responseWord st taken tag).symm.trans (congrArg responseStatus h))

/-- If the command `i` is an INIT and `t` is the state after it with an OK response, then in `t` a scheme is active and no
prediction is outstanding. -/
abbrev State.InitOkClears (s : State) (i : Instr) (t : State) : Prop :=
  rowOf i ∉ [rowNop, rowPredict, rowTrain] → t.responses = 0 :: s.responses →
    t.mode.refusal = none ∧ t.pcb = Table.filled Ctx.zero

/-- Of the cases of `exec_elim`, a command turned away and an INIT that fails do not respond OK. -/
theorem exec_initOkClears (s : State) (i : Instr) : ∃ t, exec i s = .next t ∧ s.InitOkClears i t := by
  refine exec_elim s (motive := s.InitOkClears) ?away ?nop ?static ?gshare ?tournament ?bimode ?fail ?predict ?train i
  case away => exact fun _ _ hst _ hr => absurd (status_eq_ok_of_responseWord_eq_zero (List.head_eq_of_cons_eq hr)) hst
  case nop => exact absurd (by simp [rowOf])
  case static => exact fun _ _ _ _ _ => ⟨rfl, rfl⟩
  case gshare => exact fun _ _ _ _ _ _ => ⟨rfl, rfl⟩
  case tournament => exact fun _ _ _ _ _ _ _ _ => ⟨rfl, rfl⟩
  case bimode => exact fun _ _ _ _ _ => ⟨rfl, rfl⟩
  case fail => exact fun _ _ _ hr => absurd (status_eq_ok_of_responseWord_eq_zero (List.head_eq_of_cons_eq hr)) (by decide)
  case predict => exact fun _ _ _ _ => absurd (by simp [rowOf])
  case train => exact fun _ _ _ _ _ => absurd (by simp [rowOf])

/-- Settles O23: with a scheme selected and every slot free, TRAIN fails its protocol check. -/
theorem initDiscardsOutstandingPredictions : Obligations.InitDiscardsOutstandingPredictions := by
  intro i s t o tag pc hi ht hr
  have hrow : rowOf i ∉ [rowNop, rowPredict, rowTrain] := by
    rcases hi with ⟨g, l, p, r, rfl⟩ | ⟨g, l, p, r, rfl⟩ | ⟨g, l, p, r, rfl⟩ | ⟨g, l, p, r, rfl⟩ <;>
      exact initRow_not_nop_predict_train _ (by simp [rowOf])
  obtain ⟨hmode, hpcb⟩ := of_exec_eq_next (exec_initOkClears s i) ht hrow hr
  exact execTrain_protocol hmode (State.slotMatches_of_cleared hpcb tag pc) o

/-! ## Reset (R270, R271) -/

/-- Settles O41: the fields of the state after reset; a buffer that lists no slot has every slot all-zero. -/
theorem resetLeavesUnconfigured : Obligations.ResetLeavesUnconfigured :=
  ⟨rfl, fun _ => ⟨rfl, rfl, rfl, rfl, rfl, Table.read_mk_nil _⟩⟩

/-- Settles O42: MODE is UNCONFIGURED, so PREDICT and TRAIN are refused; NOP and INIT do not look at it. -/
theorem firstRequestAfterReset : Obligations.FirstRequestAfterReset := by
  rintro p gs tn bm s rfl
  refine ⟨execNop_ok _, execPredict_refused (st := .unconfigured) rfl,
    execTrain_refused (st := .unconfigured) rfl, fun g l q => ⟨?static, ?gshare, ?tournament, ?bimode⟩⟩
  case static => exact ⟨_, execInitStatic_ok g l q _, rfl, rfl⟩
  case gshare =>
    obtain ⟨t, ht, -⟩ := exec_answers _ (.initGshare g l q 0)
    refine ⟨t, ht, fun h1 hmax => of_exec_eq_next (P := fun t => t.mode = .gshare ∧ t.responses = [0]) ?_ ht⟩
    exact ⟨_, execInitGshare_ok (validW_iff.2 ⟨h1, hmax⟩) l q, rfl, rfl⟩
  case tournament =>
    obtain ⟨t, ht, -⟩ := exec_answers _ (.initTournament g l q 0)
    refine ⟨t, ht, fun hwidths => of_exec_eq_next (P := fun t => t.mode = .tournament ∧ t.responses = [0]) ?_ ht⟩
    have hvalid (w : Width) (hw : w ∈ [g, l, q]) : validW p w = true := validW_iff.2 (hwidths w hw)
    exact ⟨_, execInitTournament_ok (hvalid g (by simp)) (hvalid l (by simp)) (hvalid q (by simp)), rfl, rfl⟩
  case bimode => exact ⟨_, execInitBimode_ok g l q _, rfl, rfl⟩

end Sys2Proof.Machine
end
